-- ==== Sys2Proof/Word.lean ====
section
/-! DEFINITION. The word types of BC4U-DEC (spec/00_scope.md R5, R6, R8): every value is unsigned, bit 0 is the
least significant bit. -/

namespace Sys2Proof

/-- One byte: a reference value, a pixel, a byte of IN or OUT (R5). -/
abbrev Byte := BitVec 8

/-- One word of the register port or of the header (R5, R64). -/
abbrev Word := BitVec 32

/-- A block count or block index (R5, decision D25). -/
abbrev DWord := BitVec 64

end Sys2Proof
end

