-- ==== Sys2Proof/Machine/Latches.lean ====
section
/-! DEFINITION. The datapath latches of one decode lane (spec/10_state.md R24, R28), with what passes between the operations
of one block. -/

namespace Sys2Proof.Machine

/-- One lane's latches. -/
structure Latches where
  /-- `blk[0..7]` (41_decode_dispatch.md R158). -/
  blk : Vector Byte 8
  /-- `A0` (42_block_decompress.md R180). -/
  a0 : Byte
  /-- `A1` (R180). -/
  a1 : Byte
  /-- `IDX` (R182). -/
  idx : BitVec 48
  /-- `ext[0..15]` (R183). -/
  ext : Vector (BitVec 3) 16
  /-- `SEL[0..15]` (R184). -/
  sel : Vector (BitVec 3) 16
  /-- `MODE` (R188): `true` is the 6-value mode. -/
  mode : Bool
  /-- `PAL[0..7]` (R189-R192). -/
  pal : Vector Byte 8
  /-- `PIX[0..15]` (R193). -/
  pix : Vector Byte 16
  /-- `TILE[0..3][0..3]`, row first (R194). -/
  tile : Vector (Vector Byte 4) 4
  /-- `r`, the tile row (41_decode_dispatch.md R160). -/
  placeRow : Nat
  /-- `c`, the tile column (R160). -/
  placeCol : Nat
  deriving DecidableEq, Repr, Inhabited

/-- Latches that all hold 0: what `State.reset` names for them (DESIGN CHOICE, log 5). -/
def Latches.zero : Latches where
  blk := #v[0#8, 0#8, 0#8, 0#8, 0#8, 0#8, 0#8, 0#8]
  a0 := 0#8
  a1 := 0#8
  idx := 0#48
  ext := #v[0#3, 0#3, 0#3, 0#3, 0#3, 0#3, 0#3, 0#3, 0#3, 0#3, 0#3, 0#3, 0#3, 0#3, 0#3, 0#3]
  sel := #v[0#3, 0#3, 0#3, 0#3, 0#3, 0#3, 0#3, 0#3, 0#3, 0#3, 0#3, 0#3, 0#3, 0#3, 0#3, 0#3]
  mode := false
  pal := #v[0#8, 0#8, 0#8, 0#8, 0#8, 0#8, 0#8, 0#8]
  pix := #v[0#8, 0#8, 0#8, 0#8, 0#8, 0#8, 0#8, 0#8, 0#8, 0#8, 0#8, 0#8, 0#8, 0#8, 0#8, 0#8]
  tile := #v[#v[0#8, 0#8, 0#8, 0#8], #v[0#8, 0#8, 0#8, 0#8], #v[0#8, 0#8, 0#8, 0#8], #v[0#8, 0#8, 0#8, 0#8]]
  placeRow := 0
  placeCol := 0

end Sys2Proof.Machine
end

