-- ==== Sys2Proof/Config.lean ====
section
/-! DEFINITION. What the spec leaves to an implementation, and the values it leaves UNSPECIFIED
(spec/00_scope.md R5, R12). An UNSPECIFIED value is an opaque constant applied to plain data: no proof can see it, so a
claim holds whatever it is. -/

namespace Sys2Proof.Config

/-- The legal values of IN_CAPACITY (R5). -/
abbrev inCapacityLegal (n : Nat) : Prop := 148 ≤ n ∧ n < 2 ^ 32

/-- The legal values of OUT_CAPACITY (R5). -/
abbrev outCapacityLegal (n : Nat) : Prop := 16 ≤ n ∧ n < 2 ^ 64

/-- The legal values of LANES (R5). -/
abbrev lanesLegal (n : Nat) : Prop := 1 ≤ n

/-- IN_CAPACITY of the machine that `State.reset` describes. DESIGN CHOICE (log 4): R5 leaves it open; a statement about
every state holds for every legal value, since the capacity is a field of State that nothing writes. -/
def resetInCapacity : Nat := 4096

/-- OUT_CAPACITY of the machine that `State.reset` describes. DESIGN CHOICE (log 4). -/
def resetOutCapacity : Nat := 4096

/-- LANES of the machine that `State.reset` describes. DESIGN CHOICE (log 4). -/
def resetLanes : Nat := 1

/-- The n-th free draw of a run, cut to the width it is drawn for (R12: a free draw of the field's width). -/
opaque freeWord : Nat → DWord

/-- The latches of a lane where they are UNSPECIFIED (10_state.md R24), by draw number and lane. -/
opaque freeLatches : (draw lane : Nat) → Machine.Latches

/-- What a byte of IN that nothing has written since reset number `resets` reads as, by reset and address (R52). -/
opaque freeInByte : (resets address : Nat) → Byte

/-- What a byte of OUT whose contents are UNSPECIFIED reads as, by reset, by the number of times OUT lost that byte's
contents since, and by address (R53, R231). -/
opaque freeOutByte : (resets losses address : Nat) → Byte

end Sys2Proof.Config
end

