-- ==== Sys2Proof/Syntax.lean ====
section
/-! DEFINITION. The operations of BC4U-DEC: one constructor for each row of spec/opcode_table.json (the constructor's
mnemonic there is in LAWS.json), and the encoded values the five formats of spec/30_encoding.md R101 decode from. -/

namespace Sys2Proof

/-- One operation. The block runs no instruction stream (spec/10_state.md R22); these are the three selections its data
makes (format code, palette mode, index), the host's register accesses, and the sequencer's operations. -/
inductive Instr where
  -- FOURCC: the 32-bit word LE_32(IN, 0x54) (30_encoding.md R93)
  /-- FMT_BC4U. -/
  | fmtBc4u
  /-- FMT_DX10. -/
  | fmtDx10
  /-- FMT_OTHER: any other code. -/
  | fmtOther (code : Word)
  -- BLOCK: the 64-bit word Q (R94), told apart by the order of the reference values (R96)
  /-- BLK_MODE6: `a0 > a1`. -/
  | blkMode6 (a0 a1 : Byte) (idx : BitVec 48)
  /-- BLK_MODE4: `a0 <= a1`. -/
  | blkMode4 (a0 a1 : Byte) (idx : BitVec 48)
  -- IDX3: one 3-bit index, given with the block's mode (R97); the lane is the pixel it selects for (R193)
  /-- SEL6_E0: entry 0 of the 6-value mode. -/
  | sel6E0 (lane : Fin 16)
  /-- SEL6_E1: entry 1 of the 6-value mode. -/
  | sel6E1 (lane : Fin 16)
  /-- SEL6_E2: entry 2 of the 6-value mode. -/
  | sel6E2 (lane : Fin 16)
  /-- SEL6_E3: entry 3 of the 6-value mode. -/
  | sel6E3 (lane : Fin 16)
  /-- SEL6_E4: entry 4 of the 6-value mode. -/
  | sel6E4 (lane : Fin 16)
  /-- SEL6_E5: entry 5 of the 6-value mode. -/
  | sel6E5 (lane : Fin 16)
  /-- SEL6_E6: entry 6 of the 6-value mode. -/
  | sel6E6 (lane : Fin 16)
  /-- SEL6_E7: entry 7 of the 6-value mode. -/
  | sel6E7 (lane : Fin 16)
  /-- SEL4_E0: entry 0 of the 4-value mode. -/
  | sel4E0 (lane : Fin 16)
  /-- SEL4_E1: entry 1 of the 4-value mode. -/
  | sel4E1 (lane : Fin 16)
  /-- SEL4_E2: entry 2 of the 4-value mode. -/
  | sel4E2 (lane : Fin 16)
  /-- SEL4_E3: entry 3 of the 4-value mode. -/
  | sel4E3 (lane : Fin 16)
  /-- SEL4_E4: entry 4 of the 4-value mode. -/
  | sel4E4 (lane : Fin 16)
  /-- SEL4_E5: entry 5 of the 4-value mode. -/
  | sel4E5 (lane : Fin 16)
  /-- SEL4_E6: entry 6 of the 4-value mode. -/
  | sel4E6 (lane : Fin 16)
  /-- SEL4_E7: entry 7 of the 4-value mode. -/
  | sel4E7 (lane : Fin 16)
  -- REGACC: one host access to the register port (R101)
  /-- CMD_START: a CTRL write with bit 0 = 1 (10_state.md R34). -/
  | cmdStart (wd : Word)
  /-- CMD_CONFIG: a CTRL write with bit 0 = 0 (R34). -/
  | cmdConfig (wd : Word)
  /-- CMD_SETLEN: an INPUT_LEN write (R39). -/
  | cmdSetlen (len : Word)
  /-- REG_WRITE: any other write (R29). -/
  | regWrite (off : Byte) (data : Word)
  /-- REG_READ (R29). -/
  | regRead (off : Byte)
  -- SEQ: the operations of the phases, in the order they run (41_decode_dispatch.md R151)
  -- phase PARSE
  /-- HP.LENGTH_CHECK (R130). -/
  | hpLengthCheck
  /-- HP.READ_FIELDS (R131). -/
  | hpReadFields
  /-- HP.DX10_DETECT (R134). -/
  | hpDx10Detect
  /-- HP.DATA_OFFSET (R135). -/
  | hpDataOffset
  /-- HP.STRICT_CHECK (R137). -/
  | hpStrictCheck
  -- phase CHECK
  /-- DS.FORMAT_CHECK (R152). -/
  | dsFormatCheck
  /-- DS.ALIGN_CHECK (R154). -/
  | dsAlignCheck
  /-- DS.BLOCK_COUNT (R156). -/
  | dsBlockCount
  /-- DS.CAPACITY_CHECK (R157). -/
  | dsCapacityCheck
  -- phase BLOCKS
  /-- SQ.BLOCK_FETCH (R158). -/
  | sqBlockFetch
  /-- BD.REF_UNPACK (R180). -/
  | bdRefUnpack
  /-- BD.IDX_ASSEMBLE (R182). -/
  | bdIdxAssemble
  /-- BD.IDX_SPLIT (R183). -/
  | bdIdxSplit
  /-- BD.PIXEL_ORDER (R184). -/
  | bdPixelOrder
  /-- BD.MODE_SELECT (R188). -/
  | bdModeSelect
  /-- BD.PAL_ENDPOINTS (R189). -/
  | bdPalEndpoints
  /-- BD.PAL6 (R190). -/
  | bdPal6
  /-- BD.PAL4 (R191). -/
  | bdPal4
  /-- BD.PAL4_CONST (R192). -/
  | bdPal4Const
  /-- BD.SELECT (R193). -/
  | bdSelect
  /-- BD.RESHAPE (R194). -/
  | bdReshape
  /-- TA.TILE_PLACE (R160). -/
  | taTilePlace
  /-- TA.TILE_WRITE (R161). -/
  | taTileWrite
  /-- SQ.ADVANCE (R163). -/
  | sqAdvance
  deriving DecidableEq, Repr

/-- The sequencer's phases (10_state.md R25). -/
inductive Phase where
  | idle
  | parse
  | check
  | blocks
  | done
  | error
  deriving DecidableEq, Repr

/-- The five formats of R101. What the encoded bits alone do not say stands beside them: an index is "given with the
block's mode" and selects for one lane; the operations of a phase share its code and are told apart by their place in the
order. -/
inductive Format where
  | fourcc
  | block
  | idx3 (mode : Bool) (lane : Fin 16)
  | regacc
  | seq (place : Nat)
  deriving DecidableEq, Repr

/-- One encoded operation: the value that R101's format matches, at the format's width. -/
inductive Code where
  | fourcc (w : Word)
  | block (q : DWord)
  | idx3 (mode : Bool) (lane : Fin 16) (i : BitVec 3)
  | regacc (a : BitVec 41)
  | seq (phase : BitVec 3) (place : Nat)
  deriving DecidableEq, Repr

end Sys2Proof
end

