-- ==== Sys2Proof/WellFormed.lean ====
section
/-! DEFINITION. Which operations an encoded value can stand for (spec/30_encoding.md R93, R96, R101; the first matching
row of a format wins). -/

namespace Sys2Proof

/-- "BC4U" as its little-endian word (00_scope.md R11). -/
def codeBc4u : Word := 0x55344342#32

/-- "DX10" as its little-endian word (R11). -/
def codeDx10 : Word := 0x30315844#32

/-- "DDS " as its little-endian word (R11). -/
def codeDds : Word := 0x20534444#32

/-- The byte offset of CTRL in the register port (10_state.md R30). -/
def offCtrl : Byte := 0x00#8

/-- The byte offset of INPUT_LEN in the register port (R30). -/
def offInputLen : Byte := 0x10#8

/-- A register offset is a multiple of 4 (10_state.md R29, 20_memory.md R64). -/
def offAligned (off : Byte) : Bool := off.toNat % 4 == 0

/-- The operation is one that a value of its format stands for. -/
def Instr.wellFormed : Instr → Bool
  | .fmtOther code => code != codeBc4u && code != codeDx10
  | .blkMode6 a0 a1 _ => decide (a1 < a0)
  | .blkMode4 a0 a1 _ => decide (a0 ≤ a1)
  | .cmdStart wd => wd.getLsbD 0
  | .cmdConfig wd => !wd.getLsbD 0
  | .regWrite off _ => offAligned off && off != offCtrl && off != offInputLen
  | .regRead off => offAligned off
  | .fmtBc4u | .fmtDx10 => true
  | .sel6E0 _ | .sel6E1 _ | .sel6E2 _ | .sel6E3 _ | .sel6E4 _ | .sel6E5 _ | .sel6E6 _ | .sel6E7 _ => true
  | .sel4E0 _ | .sel4E1 _ | .sel4E2 _ | .sel4E3 _ | .sel4E4 _ | .sel4E5 _ | .sel4E6 _ | .sel4E7 _ => true
  | .cmdSetlen _ => true
  | .hpLengthCheck | .hpReadFields | .hpDx10Detect | .hpDataOffset | .hpStrictCheck => true
  | .dsFormatCheck | .dsAlignCheck | .dsBlockCount | .dsCapacityCheck => true
  | .sqBlockFetch | .bdRefUnpack | .bdIdxAssemble | .bdIdxSplit | .bdPixelOrder | .bdModeSelect => true
  | .bdPalEndpoints | .bdPal6 | .bdPal4 | .bdPal4Const | .bdSelect | .bdReshape => true
  | .taTilePlace | .taTileWrite | .sqAdvance => true

end Sys2Proof
end

