-- ==== Sys2Proof/Decode.lean ====
section
/-! DEFINITION. Decoding (spec/30_encoding.md R93-R97, R101): from bytes to an encoded value, from an encoded value to an
operation; total, rejecting by name. After it the encoder, written from the same tables. -/

namespace Sys2Proof

/-- Why bytes or a value are no operation. -/
inductive DecodeError where
  /-- The number of bytes is not the format's. -/
  | wrongLength
  /-- The bytes hold a bit above the format's width (3 bits of 8, 41 bits of 48). -/
  | tooWide
  /-- A SEQ phase code in which the decoder runs no operation: IDLE 0, DONE 4, ERROR 5 (41_decode_dispatch.md R168). -/
  | noOperationInPhase
  /-- A SEQ phase code that names no phase: 6, 7 (R101). -/
  | phaseReserved
  /-- A place past the last operation of the phase (R151). -/
  | placeOutOfRange
  /-- A register offset that is no multiple of 4 (10_state.md R29, 20_memory.md R64). -/
  | portMisaligned
  /-- A register read whose data field is not 0 (R101: "0 for a read"). -/
  | readWithData
  deriving DecidableEq, Repr

/-! ## Little-endian bytes (00_scope.md R9) -/

/-- The unsigned integer of the bytes, the first least significant (R9: `LE_N`). -/
def leNat : List Byte → Nat
  | [] => 0
  | b :: bs => b.toNat + 256 * leNat bs

/-- The `n` low bytes of `v`, the least significant first. -/
def leBytes : (n v : Nat) → List Byte
  | 0, _ => []
  | n + 1, v => BitVec.ofNat 8 v :: leBytes n (v / 256)

/-! ## From values to operations -/

/-- R93: exact compare on all 32 bits. -/
def decodeFourcc (w : Word) : Instr :=
  if w = codeBc4u then .fmtBc4u
  else if w = codeDx10 then .fmtDx10
  else .fmtOther w

/-- R94: `a0 = Q[7:0]`. -/
def blockA0 (q : DWord) : Byte := q.extractLsb' 0 8

/-- R94: `a1 = Q[15:8]`. -/
def blockA1 (q : DWord) : Byte := q.extractLsb' 8 8

/-- R94: `IDX = Q[63:16]`. -/
def blockIdx (q : DWord) : BitVec 48 := q.extractLsb' 16 48

/-- R96: the order of the reference values selects the mode; every block is legal. -/
def decodeBlock (q : DWord) : Instr :=
  if blockA1 q < blockA0 q then .blkMode6 (blockA0 q) (blockA1 q) (blockIdx q)
  else .blkMode4 (blockA0 q) (blockA1 q) (blockIdx q)

/-- R97: the index with the block's mode (`true`: the 6-value mode); no index is reserved (42_block_decompress.md R185). -/
def decodeIdx3 (mode : Bool) (lane : Fin 16) (i : BitVec 3) : Instr :=
  match mode, i.toNat with
  | true, 0 => .sel6E0 lane
  | true, 1 => .sel6E1 lane
  | true, 2 => .sel6E2 lane
  | true, 3 => .sel6E3 lane
  | true, 4 => .sel6E4 lane
  | true, 5 => .sel6E5 lane
  | true, 6 => .sel6E6 lane
  | true, _ => .sel6E7 lane
  | false, 0 => .sel4E0 lane
  | false, 1 => .sel4E1 lane
  | false, 2 => .sel4E2 lane
  | false, 3 => .sel4E3 lane
  | false, 4 => .sel4E4 lane
  | false, 5 => .sel4E5 lane
  | false, 6 => .sel4E6 lane
  | false, _ => .sel4E7 lane

/-- R101: one host access as `{rw, off[7:0], data[31:0]}`; the first matching row wins (START, CONFIG, SETLEN, then any
write; a read). -/
def decodeRegacc (a : BitVec 41) : Except DecodeError Instr :=
  let off : Byte := a.extractLsb' 32 8
  let data : Word := a.extractLsb' 0 32
  if offAligned off = false then .error .portMisaligned
  else if a.getLsbD 40 then
    if off = offCtrl then
      if data.getLsbD 0 then .ok (.cmdStart data) else .ok (.cmdConfig data)
    else if off = offInputLen then .ok (.cmdSetlen data)
    else .ok (.regWrite off data)
  else if data = 0#32 then .ok (.regRead off)
  else .error .readWithData

/-- The code of a phase (R101; decision D1). -/
def phaseCode : Phase → BitVec 3
  | .idle => 0#3
  | .parse => 1#3
  | .check => 2#3
  | .blocks => 3#3
  | .done => 4#3
  | .error => 5#3

/-- Phase PARSE (41_decode_dispatch.md R151). -/
def parseOps : List Instr := [.hpLengthCheck, .hpReadFields, .hpDx10Detect, .hpDataOffset, .hpStrictCheck]

/-- Phase CHECK (R151). -/
def checkOps : List Instr := [.dsFormatCheck, .dsAlignCheck, .dsBlockCount, .dsCapacityCheck]

/-- Phase BLOCKS, for one block: R158, the operations of 42_block_decompress.md R195, then R160, R161 and R163 (R151). -/
def blockOps : List Instr :=
  [.sqBlockFetch, .bdRefUnpack, .bdIdxAssemble, .bdIdxSplit, .bdPixelOrder, .bdModeSelect, .bdPalEndpoints, .bdPal6] ++
  [.bdPal4, .bdPal4Const, .bdSelect, .bdReshape, .taTilePlace, .taTileWrite, .sqAdvance]

/-- The operations of a phase in the order they run; none in a phase where the decoder waits (R168). -/
def phaseOps : Phase → List Instr
  | .parse => parseOps
  | .check => checkOps
  | .blocks => blockOps
  | .idle | .done | .error => []

/-- The operation at a place of an order. -/
def opAt : List Instr → Nat → Except DecodeError Instr
  | [], _ => .error .placeOutOfRange
  | i :: _, 0 => .ok i
  | _ :: is, n + 1 => opAt is n

/-- R101: the phase code, and the place in the phase's order. -/
def decodeSeq (phase : BitVec 3) (place : Nat) : Except DecodeError Instr :=
  if phase = phaseCode .parse then opAt parseOps place
  else if phase = phaseCode .check then opAt checkOps place
  else if phase = phaseCode .blocks then opAt blockOps place
  else if phase = phaseCode .idle ∨ phase = phaseCode .done ∨ phase = phaseCode .error then .error .noOperationInPhase
  else .error .phaseReserved

/-- The operation an encoded value stands for. -/
def decode : Code → Except DecodeError Instr
  | .fourcc w => .ok (decodeFourcc w)
  | .block q => .ok (decodeBlock q)
  | .idx3 mode lane i => .ok (decodeIdx3 mode lane i)
  | .regacc a => decodeRegacc a
  | .seq phase place => decodeSeq phase place

/-! ## From bytes to values -/

/-- The bytes as one little-endian number, if there are `n` of them and it has at most `width` bits. -/
def sizedValue (n width : Nat) (bs : List Byte) : Except DecodeError Nat :=
  if bs.length ≠ n then .error .wrongLength
  else if 2 ^ width ≤ leNat bs then .error .tooWide
  else .ok (leNat bs)

/-- The encoded value in a format's bytes, the lowest address first: 4 bytes of a code, 8 of a block (R94), 6 of a
41-bit access, 1 of a 3-bit index or phase. -/
def Code.ofBytes (f : Format) (bs : List Byte) : Except DecodeError Code :=
  match f with
  | .fourcc => (sizedValue 4 32 bs).map fun v => .fourcc (BitVec.ofNat 32 v)
  | .block => (sizedValue 8 64 bs).map fun v => .block (BitVec.ofNat 64 v)
  | .idx3 mode lane => (sizedValue 1 3 bs).map fun v => .idx3 mode lane (BitVec.ofNat 3 v)
  | .regacc => (sizedValue 6 41 bs).map fun v => .regacc (BitVec.ofNat 41 v)
  | .seq place => (sizedValue 1 3 bs).map fun v => .seq (BitVec.ofNat 3 v) place

/-- Decode the bytes of a format. -/
def decodeBytes (f : Format) (bs : List Byte) : Except DecodeError Instr :=
  match Code.ofBytes f bs with
  | .ok c => decode c
  | .error e => .error e

/-! ## The encoder -/

/-- A register access as its 41-bit value (R101). -/
def accessWord (write : Bool) (off : Byte) (data : Word) : BitVec 41 := BitVec.ofBool write ++ off ++ data

/-- A block as its 64-bit word Q (R94). -/
def blockWord (a0 a1 : Byte) (idx : BitVec 48) : DWord := idx ++ a1 ++ a0

/-- The encoded value of an operation. -/
def encode : Instr → Code
  | .fmtBc4u => .fourcc codeBc4u
  | .fmtDx10 => .fourcc codeDx10
  | .fmtOther code => .fourcc code
  | .blkMode6 a0 a1 idx => .block (blockWord a0 a1 idx)
  | .blkMode4 a0 a1 idx => .block (blockWord a0 a1 idx)
  | .sel6E0 lane => .idx3 true lane 0#3
  | .sel6E1 lane => .idx3 true lane 1#3
  | .sel6E2 lane => .idx3 true lane 2#3
  | .sel6E3 lane => .idx3 true lane 3#3
  | .sel6E4 lane => .idx3 true lane 4#3
  | .sel6E5 lane => .idx3 true lane 5#3
  | .sel6E6 lane => .idx3 true lane 6#3
  | .sel6E7 lane => .idx3 true lane 7#3
  | .sel4E0 lane => .idx3 false lane 0#3
  | .sel4E1 lane => .idx3 false lane 1#3
  | .sel4E2 lane => .idx3 false lane 2#3
  | .sel4E3 lane => .idx3 false lane 3#3
  | .sel4E4 lane => .idx3 false lane 4#3
  | .sel4E5 lane => .idx3 false lane 5#3
  | .sel4E6 lane => .idx3 false lane 6#3
  | .sel4E7 lane => .idx3 false lane 7#3
  | .cmdStart wd => .regacc (accessWord true offCtrl wd)
  | .cmdConfig wd => .regacc (accessWord true offCtrl wd)
  | .cmdSetlen len => .regacc (accessWord true offInputLen len)
  | .regWrite off data => .regacc (accessWord true off data)
  | .regRead off => .regacc (accessWord false off 0#32)
  | .hpLengthCheck => .seq 1#3 0
  | .hpReadFields => .seq 1#3 1
  | .hpDx10Detect => .seq 1#3 2
  | .hpDataOffset => .seq 1#3 3
  | .hpStrictCheck => .seq 1#3 4
  | .dsFormatCheck => .seq 2#3 0
  | .dsAlignCheck => .seq 2#3 1
  | .dsBlockCount => .seq 2#3 2
  | .dsCapacityCheck => .seq 2#3 3
  | .sqBlockFetch => .seq 3#3 0
  | .bdRefUnpack => .seq 3#3 1
  | .bdIdxAssemble => .seq 3#3 2
  | .bdIdxSplit => .seq 3#3 3
  | .bdPixelOrder => .seq 3#3 4
  | .bdModeSelect => .seq 3#3 5
  | .bdPalEndpoints => .seq 3#3 6
  | .bdPal6 => .seq 3#3 7
  | .bdPal4 => .seq 3#3 8
  | .bdPal4Const => .seq 3#3 9
  | .bdSelect => .seq 3#3 10
  | .bdReshape => .seq 3#3 11
  | .taTilePlace => .seq 3#3 12
  | .taTileWrite => .seq 3#3 13
  | .sqAdvance => .seq 3#3 14

/-- The format of an encoded value. -/
def Code.format : Code → Format
  | .fourcc _ => .fourcc
  | .block _ => .block
  | .idx3 mode lane _ => .idx3 mode lane
  | .regacc _ => .regacc
  | .seq _ place => .seq place

/-- The bytes of an encoded value, the lowest address first. -/
def Code.toBytes : Code → List Byte
  | .fourcc w => leBytes 4 w.toNat
  | .block q => leBytes 8 q.toNat
  | .idx3 _ _ i => leBytes 1 i.toNat
  | .regacc a => leBytes 6 a.toNat
  | .seq phase _ => leBytes 1 phase.toNat

/-! ## The opcode table's words -/

/-- The format the table gives a row of `nbits` bits. FOURCC has 32 bits, BLOCK 64, REGACC 41 (48 in whole bytes). A word
of 8 bits or fewer is an index or a phase code, and the table gives it neither the block's mode nor the place in the
phase: it is read as the table's first 3-bit rows, an index of the 6-value mode, for lane 0 (DESIGN CHOICE, log 3). -/
def tableFormat (nbits : Nat) : Option (Format × Nat) :=
  if nbits ≤ 8 then some (.idx3 true 0, 1)
  else if nbits ≤ 32 then some (.fourcc, 4)
  else if nbits ≤ 48 then some (.regacc, 6)
  else if nbits ≤ 64 then some (.block, 8)
  else none

/-- The encoded value of a table row's word. -/
def codeOfTableWord (nbits w : Nat) : Option Code :=
  match tableFormat nbits with
  | none => none
  | some (f, n) => (Code.ofBytes f (leBytes n w)).toOption

/-- The operation the decoder reads from an instruction whose bits are `w`, numbered as spec/opcode_table.json numbers
them. -/
def decodeTableWord (nbits w : Nat) : Option Instr :=
  match codeOfTableWord nbits w with
  | none => none
  | some c => (decode c).toOption

end Sys2Proof
end

