-- ==== Sys2Proof/Machine/State.lean ====
section
/-! DEFINITION. Everything the spec gives BC4U-DEC to hold (spec/10_state.md), as plain data, and the model's own fields:
the host's pending requests, the issue slot, and the counters that the free values are drawn by. -/

namespace Sys2Proof.Machine

/-- CTRL.TILE_ORDER (10_state.md R31): 0 = COLUMN_MAJOR, 1 = ROW_MAJOR. -/
inductive TileOrder where
  | columnMajor
  | rowMajor
  deriving DecidableEq, Repr

/-- Whether the host wrote IN under the operation that runs or ran last (20_memory.md R78, 70_reset_and_hazards.md R270). -/
inductive Spoil where
  /-- It did not. -/
  | clean
  /-- It did, and the operation still runs. -/
  | running
  /-- It did, and the operation has ended: its results are UNSPECIFIED. -/
  | ended
  deriving DecidableEq, Repr

/-- What the host can do to the block (10_state.md R20, 70_reset_and_hazards.md R260, R263). -/
inductive HostEvent where
  /-- A register port access of `bytes` bytes at byte offset `off` (20_memory.md R62, R64). -/
  | access (write : Bool) (off bytes : Nat) (data : Word)
  /-- Write bytes to IN at increasing addresses (R60). -/
  | writeIn (address : Nat) (bytes : List Byte)
  /-- Read one byte of OUT (R61). -/
  | readOut (address : Nat)
  /-- Assert the reset input (R260). -/
  | reset
  deriving DecidableEq, Repr

/-- A pending host event and how many decoder turns may pass, while the block is BUSY, before it lands (log 2). -/
structure Request where
  wait : Nat
  event : HostEvent
  deriving DecidableEq, Repr

/-- The bytes of a buffer that have a definite value, by rising address. An address not listed reads as UNSPECIFIED. -/
abbrev Memory := List Host.Cell

/-- Why the machine stops with a fault. -/
inductive Fault where
  /-- An access to IN at or above IN_CAPACITY, where there is no byte (20_memory.md R60). Raised by a host write to IN,
  and by SQ.BLOCK_FETCH and the header reads in states that no run reaches. Safe. -/
  | inAddressAbsent
  /-- An access to OUT at or above OUT_CAPACITY, where there is no byte (R61). Raised by a host read of OUT, and by
  TA.TILE_WRITE in states that no run reaches. Safe. -/
  | outAddressAbsent
  deriving DecidableEq, Repr

/-- Why the model gives no meaning. -/
inductive Refusal where
  /-- An instruction that has no meaning yet; raised by `exec`'s arms only. Safe. -/
  | notModelled (mnemonic : String)
  /-- A register access that is narrower or wider than 32 bits, or at an offset that is no multiple of 4: "outside the
  interface: a model refuses it" (20_memory.md R64). Raised by the host's access and by REG_READ and REG_WRITE of such an
  offset. Safe. -/
  | portShape
  /-- The encoded value is no operation. Raised by `step`. Safe. -/
  | undecodable (why : DecodeError)
  deriving DecidableEq, Repr

/-- The state of BC4U-DEC. -/
structure State where
  -- parameters: never written (00_scope.md R5); LANES is `State.lanes`
  /-- IN_CAPACITY. -/
  inCapacity : Nat
  /-- OUT_CAPACITY. -/
  outCapacity : Nat
  -- host-visible registers (10_state.md R30)
  /-- CTRL.STRICT (R32). -/
  ctrlStrict : Bool
  /-- CTRL.TILE_ORDER (R31). -/
  ctrlTileOrder : TileOrder
  /-- CTRL.IE (R33). -/
  ctrlIe : Bool
  /-- ERROR_CODE.CODE (R37). -/
  errorCode : BitVec 4
  /-- ERROR_INFO.INFO (R38). -/
  errorInfo : Word
  /-- INPUT_LEN.LEN (R39). -/
  inputLen : Word
  /-- HDR_MAGIC (R41). -/
  hdrMagic : Word
  /-- HDR_SIZE (R42). -/
  hdrSize : Word
  /-- HDR_HEIGHT, `H` (R43). -/
  hdrHeight : Word
  /-- HDR_WIDTH, `W` (R44). -/
  hdrWidth : Word
  /-- HDR_FOURCC (R45). -/
  hdrFourcc : Word
  /-- HDR_DX10.DX10 (R46). -/
  hdrDx10 : Bool
  /-- DATA_OFFSET, `D` (R47). -/
  dataOffset : Word
  /-- BLOCK_COUNT_HI:LO, `N` (R48). -/
  blockCount : DWord
  /-- BLOCK_INDEX_HI:LO, and the sequencer's `t` (R25, R49). -/
  blockIndex : DWord
  -- the sequencer and the values latched at START
  /-- `seq` (R25). -/
  seq : Phase
  /-- `strict` as latched at START (R150). -/
  opStrict : Bool
  /-- `order` as latched at START (R150). -/
  opOrder : TileOrder
  /-- `L` as latched at START (R150, 10_state.md R40). -/
  opLen : Word
  -- datapath latches, one set per decode lane (10_state.md R24, R28)
  /-- The latches of the lane that works. -/
  lane : Latches
  /-- The latches of the other lanes, the next to work first. -/
  otherLanes : List Latches
  -- the buffers (10_state.md R52, R53)
  /-- IN. -/
  inMem : Memory
  /-- OUT. -/
  outMem : Memory
  -- the model's own
  /-- The value the last register read returned (R29). -/
  portData : Word
  /-- The value the last host read of OUT returned (R53). -/
  outData : Byte
  /-- The host's pending requests, oldest first (log 2). -/
  host : List Request
  /-- An encoded operation handed to a unit from outside the sequencer (log 3). -/
  issue : Option Code
  /-- The host has read STATUS as not BUSY since the last START (20_memory.md R75, R76; 70_reset_and_hazards.md R270). -/
  acked : Bool
  /-- The last BLOCK_INDEX the host was shown while BUSY in this operation (10_state.md R49). -/
  progress : DWord
  /-- Whether the host wrote IN under this operation (R78). -/
  spoil : Spoil
  /-- How many free values have been drawn. -/
  draws : Nat
  /-- How many times reset has been asserted. -/
  resets : Nat
  /-- For each time OUT lost contents since reset, newest first, the bound below which every byte was lost (R231). -/
  outScrambles : List Nat
  deriving DecidableEq, Repr

/-- LANES (00_scope.md R5): how many decode lanes the block has, one or more. A parameter: nothing changes it. -/
def State.lanes (s : State) : Nat := s.otherLanes.length + 1

/-- The machine right after reset (10_state.md R54): every register 0, the phase IDLE. The latches have no reset value in
the spec (UNSPECIFIED) and hold 0 here (DESIGN CHOICE, log 5); the buffers list nothing, so every byte of them reads as a
free value (log 6, log 7); the capacities and LANES are the model's (log 4); the model's own fields are empty, 0 or
false. -/
def State.reset : State where
  inCapacity := Config.resetInCapacity
  outCapacity := Config.resetOutCapacity
  ctrlStrict := false
  ctrlTileOrder := .columnMajor
  ctrlIe := false
  errorCode := 0#4
  errorInfo := 0#32
  inputLen := 0#32
  hdrMagic := 0#32
  hdrSize := 0#32
  hdrHeight := 0#32
  hdrWidth := 0#32
  hdrFourcc := 0#32
  hdrDx10 := false
  dataOffset := 0#32
  blockCount := 0#64
  blockIndex := 0#64
  seq := .idle
  opStrict := false
  opOrder := .columnMajor
  opLen := 0#32
  lane := .zero
  otherLanes := List.replicate (Config.resetLanes - 1) .zero
  inMem := []
  outMem := []
  portData := 0#32
  outData := 0#8
  host := []
  issue := none
  acked := true
  progress := 0#64
  spoil := .clean
  draws := 0
  resets := 0
  outScrambles := []

end Sys2Proof.Machine
end

