-- ==== Sys2Proof/Machine/Flags.lean ====
section
/-! DEFINITION. The conditions and status values of BC4U-DEC: the one data condition MODE (spec/10_state.md R27), STATUS
(R36), the interrupt level (R51) and the two-bit reports of the failed checks. There are no other flags. -/

namespace Sys2Proof.Machine

/-- MODE: `A0 > A1`, unsigned (42_block_decompress.md R188). -/
def modeOf (a0 a1 : Byte) : Bool := decide (a1 < a0)

/-- STATUS.STATE of a phase: IDLE 0, BUSY 1, DONE 2, ERROR 3 (10_state.md R25, R36). -/
def statusOf : Phase → BitVec 2
  | .idle => 0#2
  | .parse | .check | .blocks => 1#2
  | .done => 2#2
  | .error => 3#2

/-- STATUS.STATE = 1: an operation runs (R36). -/
def State.busy (s : State) : Bool :=
  match s.seq with
  | .parse | .check | .blocks => true
  | .idle | .done | .error => false

/-- The interrupt level (R51, 60_exceptions.md R240): IE and (DONE or ERROR). -/
def State.irq (s : State) : Bool :=
  s.ctrlIe && (s.seq == .done || s.seq == .error)

/-- Two failed-check bits as an information word: `first` in bit 0, `second` in bit 1 (R137, R154). -/
def failedBits (first second : Bool) : Word := 0#30 ++ BitVec.ofBool second ++ BitVec.ofBool first

/-- The code of TILE_ORDER (R31). -/
def tileOrderBit : TileOrder → Bool
  | .columnMajor => false
  | .rowMajor => true

/-- TILE_ORDER of a bit (R31). -/
def tileOrderOf : Bool → TileOrder
  | false => .columnMajor
  | true => .rowMajor

end Sys2Proof.Machine
end

