-- ==== Sys2Proof/Machine/Operands.lean ====
section
/-! DEFINITION. The operand forms: tables of latches, bytes and little-endian words of IN (spec/00_scope.md R9, R10),
header sizes, bit fields of the index field, palette entries (spec/30_encoding.md R97, R98). -/

namespace Sys2Proof.Machine

/-! ## Fixed tables -/

/-- The table of four entries `f 0 .. f 3`. -/
def tab4 {α : Type} (f : Fin 4 → α) : Vector α 4 := #v[f 0, f 1, f 2, f 3]

/-- The table of eight entries `f 0 .. f 7`. -/
def tab8 {α : Type} (f : Fin 8 → α) : Vector α 8 := #v[f 0, f 1, f 2, f 3, f 4, f 5, f 6, f 7]

/-- The table of sixteen entries `f 0 .. f 15`. -/
def tab16 {α : Type} (f : Fin 16 → α) : Vector α 16 :=
  #v[f 0, f 1, f 2, f 3, f 4, f 5, f 6, f 7, f 8, f 9, f 10, f 11, f 12, f 13, f 14, f 15]

/-! ## The buffers -/

/-- The definite byte at an address, if it has one. -/
def Memory.peek : Memory → Nat → Option Byte
  | [], _ => none
  | (x, b) :: m, a => if x = a then some b else Memory.peek m a

/-- The byte of IN at an address: the definite one, else a free value that stays the same until the next reset (10_state.md
R52; 20_memory.md R71: reads are idempotent). -/
def State.inByte (s : State) (a : Nat) : Byte :=
  match s.inMem.peek a with
  | some b => b
  | none => Config.freeInByte s.resets a

/-- `MemRead(IN, a, n)` (00_scope.md R10). -/
def State.inBytes (s : State) (a : Nat) : Nat → List Byte
  | 0 => []
  | n + 1 => s.inByte a :: s.inBytes (a + 1) n

/-- `LE_32(IN, off)` (R9). -/
def State.inWord (s : State) (off : Nat) : Word := BitVec.ofNat 32 (leNat (s.inBytes off 4))

/-- How many times the byte of OUT at an address has lost its contents since reset. -/
def State.outLosses (s : State) (a : Nat) : Nat := (s.outScrambles.filter fun bound => decide (a < bound)).length

/-- The byte of OUT at an address as it stands: the definite one, else a free value (10_state.md R53). -/
def State.outByte (s : State) (a : Nat) : Byte :=
  match s.outMem.peek a with
  | some b => b
  | none => Config.freeOutByte s.resets (s.outLosses a) a

/-! ## The header's sizes (40_header_parser.md R131, 41_decode_dispatch.md R155) -/

/-- `W`. -/
def State.width (s : State) : Nat := s.hdrWidth.toNat

/-- `H`. -/
def State.height (s : State) : Nat := s.hdrHeight.toNat

/-- `W * H`, exact. -/
def State.pixels (s : State) : Nat := s.width * s.height

/-- `TH = H div 4`. -/
def State.tileRows (s : State) : Nat := s.height / 4

/-- `TW = W div 4`. -/
def State.tileCols (s : State) : Nat := s.width / 4

/-- `D + 8*t` (R158), exact. -/
def State.blockAddress (s : State) : Nat := s.dataOffset.toNat + 8 * s.blockIndex.toNat

/-- Where in OUT the pixel in row `y`, column `x` of the tile at (r, c) goes (R161). -/
def State.pixelAddress (s : State) (y x : Nat) : Nat := (4 * s.lane.placeRow + y) * s.width + (4 * s.lane.placeCol + x)

/-! ## The index field -/

/-- `IDX = LE_48(blk, 2)` (42_block_decompress.md R182). -/
def indexField (blk : Vector Byte 8) : BitVec 48 :=
  BitVec.ofNat 48 (leNat [blk[2], blk[3], blk[4], blk[5], blk[6], blk[7]])

/-- `ext[j] = IDX[47-3j : 45-3j]` (R183). -/
def extractedIndex (idx : BitVec 48) (j : Fin 16) : BitVec 3 := idx.extractLsb' (45 - 3 * j.val) 3

/-- A 3-bit index as a palette entry number. -/
def entryNumber (i : BitVec 3) : Fin 8 := i.toFin

/-! ## Palette entries (R189-R192; 30_encoding.md R97) -/

/-- `(a0*(d-k) + a1*k) div d`: exact in Nat, cut to 8 bits, which loses nothing for `k <= d` (R198). -/
def interpolate (d k : Nat) (a0 a1 : Byte) : Byte := BitVec.ofNat 8 ((a0.toNat * (d - k) + a1.toNat * k) / d)

/-- Entry `i` of the 6-value mode (R189, R190). -/
def entry6 (a0 a1 : Byte) (i : Fin 8) : Byte :=
  if i.val = 0 then a0
  else if i.val = 1 then a1
  else interpolate 7 (i.val - 1) a0 a1

/-- Entry `i` of the 4-value mode (R189, R191, R192). -/
def entry4 (a0 a1 : Byte) (i : Fin 8) : Byte :=
  if i.val = 0 then a0
  else if i.val = 1 then a1
  else if i.val = 6 then 0#8
  else if i.val = 7 then 255#8
  else interpolate 5 (i.val - 1) a0 a1

/-- The pixel at row `y`, column `x` of a tile is pixel `4y + x` of the block (R194; 30_encoding.md R95). -/
def pixelNumber (y x : Fin 4) : Fin 16 := ⟨4 * y.val + x.val, by omega⟩

end Sys2Proof.Machine
end

