-- ==== Sys2Proof/Machine/Ops.lean ====
section
/-! DEFINITION. The named operations over the buffers and registers: buffer writes, free draws, error entry
(spec/60_exceptions.md R230), START (spec/41_decode_dispatch.md R150), the register port (spec/10_state.md R29-R51), and
what a host write to IN does to the operation under way (spec/20_memory.md R78). -/

namespace Sys2Proof.Machine

/-- What an operation answers. -/
abbrev Result := Host.Outcome State Fault Refusal

/-! ## Buffers -/

/-- The canonical form: addresses strictly rising. An unlisted address reads as UNSPECIFIED, which no entry equals. -/
def Memory.wf : Memory → Bool
  | [] => true
  | [_] => true
  | (x, _) :: (y, c) :: m => decide (x < y) && Memory.wf ((y, c) :: m)

/-- Write one byte, keeping the form. -/
def Memory.poke : Memory → Nat → Byte → Memory
  | [], a, v => [(a, v)]
  | (x, b) :: m, a, v =>
    if a < x then (a, v) :: (x, b) :: m
    else if x = a then (a, v) :: m
    else (x, b) :: Memory.poke m a v

/-- Write bytes at given addresses, in order. -/
def Memory.pokeAll : Memory → List Host.Cell → Memory
  | m, [] => m
  | m, (a, v) :: cs => Memory.pokeAll (m.poke a v) cs

/-- Every byte below `bound` loses its definite value. -/
def Memory.forget (m : Memory) (bound : Nat) : Memory := m.filter fun c => decide (bound ≤ c.1)

/-- The bytes as cells at increasing addresses from `a`. -/
def cellsFrom : Nat → List Byte → List Host.Cell
  | _, [] => []
  | a, b :: bs => (a, b) :: cellsFrom (a + 1) bs

/-- Every byte of OUT below `bound` becomes UNSPECIFIED (10_state.md R53, 60_exceptions.md R231). -/
def State.scrambleOut (s : State) (bound : Nat) : State :=
  { s with outMem := s.outMem.forget bound, outScrambles := bound :: s.outScrambles }

/-! ## The sequencer's phase, error entry -/

/-- `seq <- phase` (00_scope.md R10). -/
def State.setSeq (s : State) (phase : Phase) : State := { s with seq := phase }

/-- UNSPECIFIED latches of lanes `1 .. n`. -/
def freeLanes (draw : Nat) : Nat → List Latches
  | 0 => []
  | n + 1 => Config.freeLatches draw (n + 1) :: freeLanes draw n

/-- The latches of every lane become UNSPECIFIED (10_state.md R24: between operations and after reset; log 5). -/
def State.loseLatches (s : State) : State :=
  { s with
    lane := Config.freeLatches s.draws 0, otherLanes := freeLanes s.draws s.otherLanes.length, draws := s.draws + 1 }

/-- The end of an operation (10_state.md R21): `seq <- DONE` or `seq <- ERROR`, and no latch keeps its value (R24). -/
def State.finish (s : State) (phase : Phase) : State := s.loseLatches.setSeq phase

/-- The next lane takes the next block (R28; 41_decode_dispatch.md R169): the lanes work in turn (log 16). -/
def State.nextLane (s : State) : State :=
  match s.otherLanes with
  | [] => s
  | l :: ls => { s with lane := l, otherLanes := ls ++ [s.lane] }

/-- The errors (60_exceptions.md R221). InputNotFound has a reserved code; the block never raises it (R223). -/
inductive ErrorKind where
  | truncatedInput
  | malformedHeader
  | unsupportedFormat
  | blockAlignmentError
  | invalidBlockSize
  | capacityExceeded
  deriving DecidableEq, Repr

/-- ERROR_CODE.CODE of an error (R221). -/
def ErrorKind.code : ErrorKind → BitVec 4
  | .truncatedInput => 2#4
  | .malformedHeader => 3#4
  | .unsupportedFormat => 4#4
  | .blockAlignmentError => 5#4
  | .invalidBlockSize => 6#4
  | .capacityExceeded => 7#4

/-- `raise E(info)` (R230): the code, the information and the phase ERROR; the registers written earlier, CTRL and
INPUT_LEN keep their values; the PixelArray's bytes of OUT are UNSPECIFIED after any error (R231), and the latches with the
operation's end. There is no return from an error (R234): ERROR holds until START (`State.start`) or reset. -/
def State.raise (s : State) (e : ErrorKind) (info : Word) : State :=
  { (s.scrambleOut s.pixels).finish .error with errorCode := e.code, errorInfo := info }

/-! ## Free draws (00_scope.md R12) -/

/-- The next free value. -/
def State.drawn (s : State) : DWord := Config.freeWord s.draws

/-- One free value has been drawn. -/
def State.drew (s : State) : State := { s with draws := s.draws + 1 }

/-! ## START and CTRL -/

/-- The configuration bits of a CTRL write (10_state.md R34): bits 31:4 are ignored (R35), bit 0 is not stored. -/
def State.configure (s : State) (wd : Word) : State :=
  { s with ctrlStrict := wd.getLsbD 1, ctrlTileOrder := tileOrderOf (wd.getLsbD 2), ctrlIe := wd.getLsbD 3 }

/-- R150, after the configuration bits are stored: latch, clear the error, header and result registers, enter PARSE. OUT
is not cleared. The operation is not yet acknowledged by the host, and nothing has spoiled it. -/
def State.start (s : State) : State :=
  { s.setSeq .parse with
    opStrict := s.ctrlStrict, opOrder := s.ctrlTileOrder, opLen := s.inputLen
    errorCode := 0#4, errorInfo := 0#32
    hdrMagic := 0#32, hdrSize := 0#32, hdrHeight := 0#32, hdrWidth := 0#32, hdrFourcc := 0#32
    hdrDx10 := false, dataOffset := 0#32, blockCount := 0#64, blockIndex := 0#64
    acked := false, progress := 0#64, spoil := .clean }

/-- A CTRL write with bit 0 = 1 (R34, R150); ignored while BUSY (R29). -/
def State.writeStart (s : State) (wd : Word) : State := if s.busy then s else (s.configure wd).start

/-- A CTRL write with bit 0 = 0 (R34); ignored while BUSY. -/
def State.writeConfig (s : State) (wd : Word) : State := if s.busy then s else s.configure wd

/-- An INPUT_LEN write: `min(v, IN_CAPACITY)` (R39); ignored while BUSY. -/
def State.writeLen (s : State) (len : Word) : State :=
  if s.busy then s else { s with inputLen := BitVec.ofNat 32 (min len.toNat s.inCapacity) }

/-! ## The register port -/

/-- CTRL as the host reads it: START and the reserved bits read 0 (R34, R35). -/
def State.ctrlWord (s : State) : Word :=
  0#28 ++ BitVec.ofBool s.ctrlIe ++ BitVec.ofBool (tileOrderBit s.ctrlTileOrder) ++ BitVec.ofBool s.ctrlStrict ++ 0#1

/-- The register at an offset (R30); reserved offsets read 0 (R50). -/
def State.portRead (s : State) (off : Byte) : Word :=
  match off.toNat with
  | 0x00 => s.ctrlWord
  | 0x04 => 0#30 ++ statusOf s.seq
  | 0x08 => 0#28 ++ s.errorCode
  | 0x0C => s.errorInfo
  | 0x10 => s.inputLen
  | 0x14 => s.hdrMagic
  | 0x18 => s.hdrSize
  | 0x1C => s.hdrHeight
  | 0x20 => s.hdrWidth
  | 0x24 => s.hdrFourcc
  | 0x28 => 0#31 ++ BitVec.ofBool s.hdrDx10
  | 0x2C => s.dataOffset
  | 0x30 => s.blockCount.extractLsb' 0 32
  | 0x34 => s.blockCount.extractLsb' 32 32
  | 0x38 => s.blockIndex.extractLsb' 0 32
  | 0x3C => s.blockIndex.extractLsb' 32 32
  | _ => 0#32

/-- The offsets whose registers a spoiled operation leaves UNSPECIFIED: ERROR_CODE, ERROR_INFO, and every header and
result register (20_memory.md R78). -/
def resultOffset (off : Byte) : Bool :=
  off == 0x08#8 || off == 0x0C#8 || (decide (0x14 ≤ off.toNat) && decide (off.toNat ≤ 0x3C))

/-- The bits a register has: CODE four (R35, R37), DX10 one (R46), the others thirty-two. -/
def registerMask (off : Byte) : Word :=
  if off = 0x08#8 then 0xF#32 else if off = 0x28#8 then 0x1#32 else 0xFFFFFFFF#32

/-- A value of BLOCK_INDEX the host may be shown while BUSY: any value from the last one shown up to `N` (R49). -/
def State.shownIndex (s : State) : DWord :=
  if s.drawn ≤ s.progress then s.progress else if s.blockCount < s.drawn then s.blockCount else s.drawn

/-- A register read (R29). A read of STATUS that shows DONE or ERROR acknowledges the operation (20_memory.md R76). While
BUSY, BLOCK_INDEX shows a free value within R49's bounds, and once the host has written IN under the operation its
registers show free values (R78). Otherwise a read changes nothing but the value returned (R71). -/
def State.readPort (s : State) (off : Byte) : State :=
  if s.busy && s.spoil != .clean && resultOffset off then
    { s.drew with portData := s.drawn.extractLsb' 0 32 &&& registerMask off }
  else if s.busy && (off == 0x38#8 || off == 0x3C#8) then
    { s.drew with progress := s.shownIndex, portData := s.shownIndex.extractLsb' (if off = 0x38#8 then 0 else 32) 32 }
  else if off = 0x04#8 then { s with portData := s.portRead off, acked := s.acked || !s.busy }
  else { s with portData := s.portRead off }

/-- A register write by offset (R29): CTRL, INPUT_LEN, and everything else ignored (R35, R50). -/
def State.writePort (s : State) (off : Byte) (data : Word) : State :=
  if off = offCtrl then (if data.getLsbD 0 then s.writeStart data else s.writeConfig data)
  else if off = offInputLen then s.writeLen data
  else s

/-! ## The host's buffer accesses -/

/-- Every result of the operation takes a free value (20_memory.md R78): OUT, every header and result register, ERROR_CODE
and ERROR_INFO. -/
def State.spoilResults (s : State) : State :=
  { s.scrambleOut s.outCapacity with
    errorCode := (Config.freeWord s.draws).extractLsb' 0 4
    errorInfo := (Config.freeWord (s.draws + 1)).extractLsb' 0 32
    hdrMagic := (Config.freeWord (s.draws + 2)).extractLsb' 0 32
    hdrSize := (Config.freeWord (s.draws + 3)).extractLsb' 0 32
    hdrHeight := (Config.freeWord (s.draws + 4)).extractLsb' 0 32
    hdrWidth := (Config.freeWord (s.draws + 5)).extractLsb' 0 32
    hdrFourcc := (Config.freeWord (s.draws + 6)).extractLsb' 0 32
    hdrDx10 := (Config.freeWord (s.draws + 7)).getLsbD 0
    dataOffset := (Config.freeWord (s.draws + 8)).extractLsb' 0 32
    blockCount := Config.freeWord (s.draws + 9)
    blockIndex := Config.freeWord (s.draws + 10)
    draws := s.draws + 11
    spoil := .ended }

/-- What a host write to IN does to the operation that the host has not acknowledged (R78; 70_reset_and_hazards.md R270):
while it runs, its visits go on and it ends with free results (`State.spoiledVisit`); once it has ended, its results are
free. -/
def State.spoilOperation (s : State) : State :=
  if s.acked then s
  else if s.busy then { s with spoil := .running }
  else s.spoilResults

/-- A host write to IN (R60). An address that does not exist faults, and nothing is written. -/
def State.hostWriteIn (s : State) (a : Nat) (bs : List Byte) : Result :=
  if s.inCapacity < a + bs.length then .fault .inAddressAbsent
  else .next { s with inMem := s.inMem.pokeAll (cellsFrom a bs) }.spoilOperation

/-- The bound below which OUT is UNSPECIFIED to the host now: the PixelArray while the operation runs (10_state.md R53),
and after it until the host has read STATUS (20_memory.md R75, 70_reset_and_hazards.md R272). Before the header is parsed,
and once the operation is spoiled, the PixelArray's size is not known, and all of OUT is taken. -/
def State.outHidden (s : State) : Nat :=
  if s.acked then 0
  else if s.seq = .parse ∨ s.spoil ≠ .clean then s.outCapacity
  else s.pixels

/-- A host read of one byte of OUT. -/
def State.hostReadOut (s : State) (a : Nat) : Result :=
  if s.outCapacity ≤ a then .fault .outAddressAbsent
  else if a < s.outHidden then .next { s.drew with outData := s.drawn.extractLsb' 0 8 }
  else .next { s with outData := s.outByte a }

/-- The reset input (70_reset_and_hazards.md R260, R261): every register at its reset value, IN, OUT and the latches
UNSPECIFIED. The capacities and LANES are the machine's own; the host's later requests and the counters of free values go on
(log 25). -/
def State.afterReset (s : State) : State :=
  State.loseLatches { State.reset with
    inCapacity := s.inCapacity, outCapacity := s.outCapacity, otherLanes := s.otherLanes, host := s.host
    draws := s.draws, resets := s.resets + 1 }

/-! ## The decoder's buffer accesses -/

/-- A decoder read of IN below `stop`: a byte at or above IN_CAPACITY does not exist (20_memory.md R60). -/
def State.readingIn (s : State) (stop : Nat) (k : Result) : Result :=
  if s.inCapacity < stop then .fault .inAddressAbsent else k

/-- `MemRead(IN, a, 8)` as a block's eight bytes. -/
def State.blockAt (s : State) (a : Nat) : Vector Byte 8 := tab8 fun i => s.inByte (a + i.val)

/-- The pixels of a block, in order. -/
def allPixels : List (Fin 16) := [0, 1, 2, 3, 4, 5, 6, 7, 8, 9, 10, 11, 12, 13, 14, 15]

/-- The row of a pixel in its tile (30_encoding.md R95). -/
def pixelRow (p : Fin 16) : Fin 4 := ⟨p.val / 4, by omega⟩

/-- The column of a pixel in its tile (R95). -/
def pixelCol (p : Fin 16) : Fin 4 := ⟨p.val % 4, by omega⟩

/-- The sixteen bytes a tile write stores, row by row (41_decode_dispatch.md R161). -/
def State.tileCells (s : State) : List Host.Cell :=
  allPixels.map fun p => (s.pixelAddress (pixelRow p).val (pixelCol p).val, s.lane.tile[pixelRow p][pixelCol p])

end Sys2Proof.Machine
end

