-- ==== Sys2Proof/Machine/BlockDecompress.lean ====
section
/-! DEFINITION. The single-block decompression, operation by operation (spec/42_block_decompress.md). -/

namespace Sys2Proof.Machine

/-- BD.REF_UNPACK (R180). -/
def execBdRefUnpack (s : State) : Result := .next { s with lane.a0 := s.lane.blk[0], lane.a1 := s.lane.blk[1] }

/-- BD.IDX_ASSEMBLE (R182). -/
def execBdIdxAssemble (s : State) : Result := .next { s with lane.idx := indexField s.lane.blk }

/-- BD.IDX_SPLIT (R183): most significant group first. -/
def execBdIdxSplit (s : State) : Result := .next { s with lane.ext := tab16 (extractedIndex s.lane.idx) }

/-- BD.PIXEL_ORDER (R184): `SEL = reverse(ext[8:16]) ++ reverse(ext[0:8])`, that is `SEL[p] = ext[15-p]`. -/
def execBdPixelOrder (s : State) : Result := .next { s with lane.sel := tab16 fun p => s.lane.ext[p.rev] }

/-- BD.MODE_SELECT (R188). -/
def execBdModeSelect (s : State) : Result := .next { s with lane.mode := modeOf s.lane.a0 s.lane.a1 }

/-- BD.PAL_ENDPOINTS (R189), in both modes. -/
def execBdPalEndpoints (s : State) : Result := .next { s with lane.pal := (s.lane.pal.set 0 s.lane.a0).set 1 s.lane.a1 }

/-- BD.PAL6 (R190): entries 2 to 7, in the 6-value mode only. -/
def execBdPal6 (s : State) : Result :=
  if s.lane.mode then
    .next { s with lane.pal := tab8 fun i => if 2 ≤ i.val then interpolate 7 (i.val - 1) s.lane.a0 s.lane.a1 else s.lane.pal[i] }
  else .next s

/-- BD.PAL4 (R191): entries 2 to 5, in the 4-value mode only. -/
def execBdPal4 (s : State) : Result :=
  if s.lane.mode then .next s
  else
    .next { s with
      lane.pal := tab8 fun i => if 2 ≤ i.val ∧ i.val ≤ 5 then interpolate 5 (i.val - 1) s.lane.a0 s.lane.a1 else s.lane.pal[i] }

/-- BD.PAL4_CONST (R192): entries 6 and 7, in the 4-value mode only. -/
def execBdPal4Const (s : State) : Result :=
  if s.lane.mode then .next s else .next { s with lane.pal := (s.lane.pal.set 6 0#8).set 7 255#8 }

/-- BD.SELECT (R193): sixteen independent lanes. -/
def execBdSelect (s : State) : Result := .next { s with lane.pix := tab16 fun p => s.lane.pal[entryNumber s.lane.sel[p]] }

/-- BD.RESHAPE (R194). -/
def execBdReshape (s : State) : Result :=
  .next { s with lane.tile := tab4 fun y => tab4 fun x => s.lane.pix[pixelNumber y x] }

end Sys2Proof.Machine
end

