-- ==== Sys2Proof/Machine/BlockMode.lean ====
section
/-! DEFINITION. The palette-mode selections BLK_MODE6 and BLK_MODE4 (spec/30_encoding.md R94, R96): a block word supplies
the reference values and the index field, and its mode the palette (DEDUCED, log 14). -/

namespace Sys2Proof.Machine

/-- The latches a block word and its mode give (R94; 42_block_decompress.md R180, R182, R188), with the palette. -/
def State.loadBlockWord (s : State) (a0 a1 : Byte) (idx : BitVec 48) (mode : Bool) (entry : Byte → Byte → Fin 8 → Byte) :
    State :=
  { s with lane.a0 := a0, lane.a1 := a1, lane.idx := idx, lane.mode := mode, lane.pal := tab8 (entry a0 a1) }

/-- "6-value interpolation palette" (R189, R190). -/
def execBlkMode6 (a0 a1 : Byte) (idx : BitVec 48) (s : State) : Result := .next (s.loadBlockWord a0 a1 idx true entry6)

/-- "4-value interpolation palette, entries 6 = 0 and 7 = 255" (R189, R191, R192). -/
def execBlkMode4 (a0 a1 : Byte) (idx : BitVec 48) (s : State) : Result := .next (s.loadBlockWord a0 a1 idx false entry4)

end Sys2Proof.Machine
end

