-- ==== Sys2Proof/Machine/BlockSequencer.lean ====
section
/-! DEFINITION. The block sequencer (spec/41_decode_dispatch.md R158, R163). -/

namespace Sys2Proof.Machine

/-- SQ.BLOCK_FETCH (R158): the block's window must lie wholly below `L`. -/
def execSqBlockFetch (s : State) : Result :=
  if s.opLen.toNat < s.blockAddress + 8 then .next (s.raise .invalidBlockSize (s.blockIndex.extractLsb' 0 32))
  else s.readingIn (s.blockAddress + 8) (.next { s with lane.blk := s.blockAt s.blockAddress })

/-- SQ.ADVANCE (R163). -/
def execSqAdvance (s : State) : Result :=
  let s' := { s with blockIndex := s.blockIndex + 1#64 }
  if s.blockIndex + 1#64 = s.blockCount then .next (s'.finish .done) else .next s'

end Sys2Proof.Machine
end

