-- ==== Sys2Proof/Machine/Checks.lean ====
section
/-! DEFINITION. The operations of phase CHECK (spec/41_decode_dispatch.md R152-R157). -/

namespace Sys2Proof.Machine

/-- DS.FORMAT_CHECK (R152): the bytes of IN are compared, INFO is HDR_FOURCC (log 20). -/
def execDsFormatCheck (s : State) : Result :=
  s.readingIn 0x58 (if s.inWord 0x54 = codeBc4u then .next s else .next (s.raise .unsupportedFormat s.hdrFourcc))

/-- DS.ALIGN_CHECK (R154): bit 0 of INFO is the width, bit 1 the height. -/
def execDsAlignCheck (s : State) : Result :=
  let wa := s.width % 4 != 0
  let ha := s.height % 4 != 0
  if wa || ha then .next (s.raise .blockAlignmentError (failedBits wa ha)) else .next s

/-- DS.BLOCK_COUNT (R156): the product is exact. -/
def execDsBlockCount (s : State) : Result := .next { s with blockCount := BitVec.ofNat 64 (s.pixels / 16) }

/-- DS.CAPACITY_CHECK and the end of phase CHECK (R157). -/
def execDsCapacityCheck (s : State) : Result :=
  if s.outCapacity < s.pixels then .next (s.raise .capacityExceeded 0#32)
  else if s.blockCount = 0#64 then .next (s.finish .done)
  else .next { s.setSeq .blocks with blockIndex := 0#64 }

end Sys2Proof.Machine
end

