-- ==== Sys2Proof/Machine/FormatCode.lean ====
section
/-! DEFINITION. The format-code selections FMT_BC4U, FMT_DX10 and FMT_OTHER (spec/30_encoding.md R93): what the four bytes at
0x54 make of the file. Each is the part of HP.DX10_DETECT, HP.DATA_OFFSET and DS.FORMAT_CHECK that its code selects
(DEDUCED, log 15). -/

namespace Sys2Proof.Machine

/-- R93: the marker and the data offset of a code. -/
def State.selectFormat (s : State) (dx10 : Bool) (d : Word) : State := { s with hdrDx10 := dx10, dataOffset := d }

/-- "DX10 = 0, `D` = 128, the decode proceeds". -/
def execFmtBc4u (s : State) : Result := .next (s.selectFormat false 128#32)

/-- "DX10 = 1, `D` = 148, the decode raises UnsupportedFormat with INFO `0x30315844`" (41_decode_dispatch.md R153). -/
def execFmtDx10 (s : State) : Result := .next ((s.selectFormat true 148#32).raise .unsupportedFormat codeDx10)

/-- "DX10 = 0, `D` = 128, the decode raises UnsupportedFormat with INFO the word". -/
def execFmtOther (code : Word) (s : State) : Result := .next ((s.selectFormat false 128#32).raise .unsupportedFormat code)

end Sys2Proof.Machine
end

