-- ==== Sys2Proof/Machine/HeaderParser.lean ====
section
/-! DEFINITION. The operations of phase PARSE (spec/40_header_parser.md). -/

namespace Sys2Proof.Machine

/-- HP.LENGTH_CHECK (R130). -/
def execHpLengthCheck (s : State) : Result :=
  if s.opLen.toNat < 128 then .next (s.raise .truncatedInput s.opLen) else .next s

/-- HP.READ_FIELDS (R131): the five words, whatever they hold. -/
def execHpReadFields (s : State) : Result :=
  s.readingIn 0x58 (.next { s with
    hdrMagic := s.inWord 0x00
    hdrSize := s.inWord 0x04
    hdrHeight := s.inWord 0x0C
    hdrWidth := s.inWord 0x10
    hdrFourcc := s.inWord 0x54 })

/-- HP.DX10_DETECT (R134): exact compare of the four bytes at 0x54. -/
def execHpDx10Detect (s : State) : Result :=
  s.readingIn 0x58 (.next { s with hdrDx10 := s.inWord 0x54 == codeDx10 })

/-- HP.DATA_OFFSET (R135). -/
def execHpDataOffset (s : State) : Result :=
  .next { s with dataOffset := if s.hdrDx10 then 148#32 else 128#32 }

/-- HP.STRICT_CHECK (R137): bit 0 of INFO is the magic, bit 1 the size. -/
def execHpStrictCheck (s : State) : Result :=
  let m := s.hdrMagic != codeDds
  let z := s.hdrSize != 124#32
  if s.opStrict && (m || z) then .next (s.raise .malformedHeader (failedBits m z)) else .next s

end Sys2Proof.Machine
end

