-- ==== Sys2Proof/Machine/IndexSelect.lean ====
section
/-! DEFINITION. The index selections SEL6_E0..E7 and SEL4_E0..E7 (spec/30_encoding.md R97): in one lane of the selection
multiplexer (spec/42_block_decompress.md R193), an index makes the pixel the palette entry of that number, whose value R97
gives from the block's reference values (DEDUCED, log 13). -/

namespace Sys2Proof.Machine

/-- `PIX[lane] <- v` (R193). -/
def State.putPixel (s : State) (lane : Fin 16) (v : Byte) : State := { s with lane.pix := s.lane.pix.set lane v }

/-- `a0` (R97). -/
def execSel6E0 (lane : Fin 16) (s : State) : Result := .next (s.putPixel lane (entry6 s.lane.a0 s.lane.a1 0))

/-- `a1` (R97). -/
def execSel6E1 (lane : Fin 16) (s : State) : Result := .next (s.putPixel lane (entry6 s.lane.a0 s.lane.a1 1))

/-- `(6*a0 + 1*a1) div 7` (R97). -/
def execSel6E2 (lane : Fin 16) (s : State) : Result := .next (s.putPixel lane (entry6 s.lane.a0 s.lane.a1 2))

/-- `(5*a0 + 2*a1) div 7` (R97). -/
def execSel6E3 (lane : Fin 16) (s : State) : Result := .next (s.putPixel lane (entry6 s.lane.a0 s.lane.a1 3))

/-- `(4*a0 + 3*a1) div 7` (R97). -/
def execSel6E4 (lane : Fin 16) (s : State) : Result := .next (s.putPixel lane (entry6 s.lane.a0 s.lane.a1 4))

/-- `(3*a0 + 4*a1) div 7` (R97). -/
def execSel6E5 (lane : Fin 16) (s : State) : Result := .next (s.putPixel lane (entry6 s.lane.a0 s.lane.a1 5))

/-- `(2*a0 + 5*a1) div 7` (R97). -/
def execSel6E6 (lane : Fin 16) (s : State) : Result := .next (s.putPixel lane (entry6 s.lane.a0 s.lane.a1 6))

/-- `(1*a0 + 6*a1) div 7` (R97). -/
def execSel6E7 (lane : Fin 16) (s : State) : Result := .next (s.putPixel lane (entry6 s.lane.a0 s.lane.a1 7))

/-- `a0` (R97). -/
def execSel4E0 (lane : Fin 16) (s : State) : Result := .next (s.putPixel lane (entry4 s.lane.a0 s.lane.a1 0))

/-- `a1` (R97). -/
def execSel4E1 (lane : Fin 16) (s : State) : Result := .next (s.putPixel lane (entry4 s.lane.a0 s.lane.a1 1))

/-- `(4*a0 + 1*a1) div 5` (R97). -/
def execSel4E2 (lane : Fin 16) (s : State) : Result := .next (s.putPixel lane (entry4 s.lane.a0 s.lane.a1 2))

/-- `(3*a0 + 2*a1) div 5` (R97). -/
def execSel4E3 (lane : Fin 16) (s : State) : Result := .next (s.putPixel lane (entry4 s.lane.a0 s.lane.a1 3))

/-- `(2*a0 + 3*a1) div 5` (R97). -/
def execSel4E4 (lane : Fin 16) (s : State) : Result := .next (s.putPixel lane (entry4 s.lane.a0 s.lane.a1 4))

/-- `(1*a0 + 4*a1) div 5` (R97). -/
def execSel4E5 (lane : Fin 16) (s : State) : Result := .next (s.putPixel lane (entry4 s.lane.a0 s.lane.a1 5))

/-- `0` (R97). -/
def execSel4E6 (lane : Fin 16) (s : State) : Result := .next (s.putPixel lane (entry4 s.lane.a0 s.lane.a1 6))

/-- `255` (R97). -/
def execSel4E7 (lane : Fin 16) (s : State) : Result := .next (s.putPixel lane (entry4 s.lane.a0 s.lane.a1 7))

end Sys2Proof.Machine
end

