-- ==== Sys2Proof/Machine/RegisterPort.lean ====
section
/-! DEFINITION. The host's register accesses CMD_START, CMD_CONFIG, CMD_SETLEN, REG_WRITE and REG_READ
(spec/10_state.md R29-R51, spec/41_decode_dispatch.md R150). -/

namespace Sys2Proof.Machine

/-- A START accepted or, while BUSY, ignored with its configuration bits (R34, R150). -/
def execCmdStart (wd : Word) (s : State) : Result := .next (s.writeStart wd)

/-- A CTRL write without START (R34). -/
def execCmdConfig (wd : Word) (s : State) : Result := .next (s.writeConfig wd)

/-- An INPUT_LEN write (R39). -/
def execCmdSetlen (len : Word) (s : State) : Result := .next (s.writeLen len)

/-- Any other write: a read-only or reserved register ignores it (R29, R35, R50). -/
def execRegWrite (off : Byte) (data : Word) (s : State) : Result :=
  if offAligned off then .next (s.writePort off data) else .refused .portShape

/-- A read (R29). -/
def execRegRead (off : Byte) (s : State) : Result :=
  if offAligned off then .next (s.readPort off) else .refused .portShape

end Sys2Proof.Machine
end

