-- ==== Sys2Proof/Machine/TileAssembler.lean ====
section
/-! DEFINITION. The tile assembler (spec/41_decode_dispatch.md R160, R161). -/

namespace Sys2Proof.Machine

/-- The tile row and column of block `t` (R160). -/
def placeOf (order : TileOrder) (tileRows tileCols t : Nat) : Nat × Nat :=
  match order with
  | .columnMajor => (t % tileRows, t / tileRows)
  | .rowMajor => (t / tileCols, t % tileCols)

/-- TA.TILE_PLACE (R160). With no tile row or no tile column the spec gives no place (a divisor is positive, 00_scope.md R8;
no run gets there, R160): the place is then free (log 17). -/
def execTaTilePlace (s : State) : Result :=
  if s.tileRows = 0 ∨ s.tileCols = 0 then
    .next { s with
      lane.placeRow := (Config.freeWord s.draws).toNat
      lane.placeCol := (Config.freeWord (s.draws + 1)).toNat
      draws := s.draws + 2 }
  else
    let place := placeOf s.opOrder s.tileRows s.tileCols s.blockIndex.toNat
    .next { s with lane.placeRow := place.1, lane.placeCol := place.2 }

/-- TA.TILE_WRITE (R161): sixteen bytes of OUT. An address that does not exist (no run gets there, R162) faults, and nothing
is written (log 12). -/
def execTaTileWrite (s : State) : Result :=
  if s.tileCells.all fun c => decide (c.1 < s.outCapacity) then .next { s with outMem := s.outMem.pokeAll s.tileCells }
  else .fault .outAddressAbsent

end Sys2Proof.Machine
end

