-- ==== Sys2Proof/Machine/Dispatch.lean ====
section
/-! DEFINITION. The meaning of every operation, one arm per row of spec/opcode_table.json. -/

namespace Sys2Proof.Machine

def exec (i : Instr) (s : State) : Host.Outcome State Fault Refusal :=
  match i with
  | .fmtBc4u => Sys2Proof.Machine.execFmtBc4u s
  | .fmtDx10 => Sys2Proof.Machine.execFmtDx10 s
  | .fmtOther code => Sys2Proof.Machine.execFmtOther code s
  | .blkMode6 a0 a1 idx => Sys2Proof.Machine.execBlkMode6 a0 a1 idx s
  | .blkMode4 a0 a1 idx => Sys2Proof.Machine.execBlkMode4 a0 a1 idx s
  | .sel6E0 lane => Sys2Proof.Machine.execSel6E0 lane s
  | .sel6E1 lane => Sys2Proof.Machine.execSel6E1 lane s
  | .sel6E2 lane => Sys2Proof.Machine.execSel6E2 lane s
  | .sel6E3 lane => Sys2Proof.Machine.execSel6E3 lane s
  | .sel6E4 lane => Sys2Proof.Machine.execSel6E4 lane s
  | .sel6E5 lane => Sys2Proof.Machine.execSel6E5 lane s
  | .sel6E6 lane => Sys2Proof.Machine.execSel6E6 lane s
  | .sel6E7 lane => Sys2Proof.Machine.execSel6E7 lane s
  | .sel4E0 lane => Sys2Proof.Machine.execSel4E0 lane s
  | .sel4E1 lane => Sys2Proof.Machine.execSel4E1 lane s
  | .sel4E2 lane => Sys2Proof.Machine.execSel4E2 lane s
  | .sel4E3 lane => Sys2Proof.Machine.execSel4E3 lane s
  | .sel4E4 lane => Sys2Proof.Machine.execSel4E4 lane s
  | .sel4E5 lane => Sys2Proof.Machine.execSel4E5 lane s
  | .sel4E6 lane => Sys2Proof.Machine.execSel4E6 lane s
  | .sel4E7 lane => Sys2Proof.Machine.execSel4E7 lane s
  | .cmdStart wd => Sys2Proof.Machine.execCmdStart wd s
  | .cmdConfig wd => Sys2Proof.Machine.execCmdConfig wd s
  | .cmdSetlen len => Sys2Proof.Machine.execCmdSetlen len s
  | .regWrite off data => Sys2Proof.Machine.execRegWrite off data s
  | .regRead off => Sys2Proof.Machine.execRegRead off s
  | .hpLengthCheck => Sys2Proof.Machine.execHpLengthCheck s
  | .hpReadFields => Sys2Proof.Machine.execHpReadFields s
  | .hpDx10Detect => Sys2Proof.Machine.execHpDx10Detect s
  | .hpDataOffset => Sys2Proof.Machine.execHpDataOffset s
  | .hpStrictCheck => Sys2Proof.Machine.execHpStrictCheck s
  | .dsFormatCheck => Sys2Proof.Machine.execDsFormatCheck s
  | .dsAlignCheck => Sys2Proof.Machine.execDsAlignCheck s
  | .dsBlockCount => Sys2Proof.Machine.execDsBlockCount s
  | .dsCapacityCheck => Sys2Proof.Machine.execDsCapacityCheck s
  | .sqBlockFetch => Sys2Proof.Machine.execSqBlockFetch s
  | .bdRefUnpack => Sys2Proof.Machine.execBdRefUnpack s
  | .bdIdxAssemble => Sys2Proof.Machine.execBdIdxAssemble s
  | .bdIdxSplit => Sys2Proof.Machine.execBdIdxSplit s
  | .bdPixelOrder => Sys2Proof.Machine.execBdPixelOrder s
  | .bdModeSelect => Sys2Proof.Machine.execBdModeSelect s
  | .bdPalEndpoints => Sys2Proof.Machine.execBdPalEndpoints s
  | .bdPal6 => Sys2Proof.Machine.execBdPal6 s
  | .bdPal4 => Sys2Proof.Machine.execBdPal4 s
  | .bdPal4Const => Sys2Proof.Machine.execBdPal4Const s
  | .bdSelect => Sys2Proof.Machine.execBdSelect s
  | .bdReshape => Sys2Proof.Machine.execBdReshape s
  | .taTilePlace => Sys2Proof.Machine.execTaTilePlace s
  | .taTileWrite => Sys2Proof.Machine.execTaTileWrite s
  | .sqAdvance => Sys2Proof.Machine.execSqAdvance s

end Sys2Proof.Machine
end

