-- ==== Sys2Proof/Machine/Turn.lean ====
section
/-! DEFINITION. Who moves next and what it does: the issue slot, the host's next request, the decoder's next phase visit
(spec/41_decode_dispatch.md R151, R168; spec/70_reset_and_hazards.md R263). `Step.lean` only calls it. -/

namespace Sys2Proof.Machine

/-- Decode an encoded operation and run it. -/
def runCode (c : Code) (s : State) : Result :=
  match decode c with
  | .ok i => exec i s
  | .error e => .refused (.undecodable e)

/-! ## The decoder -/

/-- The operations of a visit in their order (R151), until one changes the phase; the first that raises an error ends the
operation. After PARSE's last operation comes CHECK; a BLOCK visit ends in its last operation. -/
def runOps (phase : Phase) : List Instr → State → Result
  | [], s => .next (if phase = .parse then s.setSeq .check else s)
  | i :: is, s =>
    match exec i s with
    | .next t => if t.seq = phase then runOps phase is t else .next t
    | .fault f => .fault f
    | .refused r => .refused r

/-- A BLOCK visit is the next lane's (R169); PARSE and CHECK use no lane. -/
def State.enterVisit (s : State) : State := if s.seq = .blocks then s.nextLane else s

/-- One phase visit, one atomic transition (R168): all operations of PARSE, of CHECK, or of one block. -/
def decoderVisit (s : State) : Result := runOps s.seq (phaseOps s.seq) s.enterVisit

/-- The end of an operation under which the host wrote IN (20_memory.md R78): `phase` is DONE or ERROR, every result free. -/
def State.endSpoiled (s : State) (phase : Phase) : State := s.spoilResults.finish phase

/-- A free block count within its bound, `N < 2^60` (10_state.md R48). -/
def State.freeCount (s : State) : DWord := (s.drawn.extractLsb' 0 60).setWidth 64

/-- A CHECK visit that raises no error, of an operation under which the host wrote IN: N is free, and the phase is DONE when
`N = 0`, else BLOCKS with `t = 0` (41_decode_dispatch.md R156, R157). -/
def State.spoiledCheck (s : State) : State :=
  if s.freeCount = 0#64 then s.drew.endSpoiled .done
  else { s.drew.setSeq .blocks with blockCount := s.freeCount, blockIndex := 0#64 }

/-- A BLOCK visit that raises no error, of an operation under which the host wrote IN: the next lane's latches are free, `t`
goes up by one, and the phase is DONE when `t = N` (R163). -/
def State.spoiledBlock (s : State) : State :=
  if s.blockIndex + 1#64 = s.blockCount then s.drew.endSpoiled .done
  else { s.drew.nextLane with lane := Config.freeLatches s.draws 0, blockIndex := s.blockIndex + 1#64 }

/-- A visit of an operation under which the host wrote IN (20_memory.md R78). The sequencer advances as in any other
(10_state.md R26; R168); what the visit would compute from IN is free (log 10): whether it raises an error, and N. -/
def State.spoiledVisit (s : State) : State :=
  if s.drawn.getLsbD 0 then s.drew.endSpoiled .error
  else match s.seq with
    | .parse => s.drew.setSeq .check
    | .check => s.drew.spoiledCheck
    | .blocks => s.drew.spoiledBlock
    | .idle | .done | .error => s

/-- The decoder's visit, by whether the host has written IN under the operation. -/
def decoderTurn (s : State) : Result :=
  match s.spoil with
  | .running => .next s.spoiledVisit
  | .clean | .ended => decoderVisit s

/-! ## The host -/

/-- A register access (10_state.md R29, 20_memory.md R64). Offsets past the encoded eight bits are reserved ones like all
from 0x40 (R50): they read 0 and ignore writes. -/
def hostAccess (write : Bool) (off bytes : Nat) (data : Word) (s : State) : Result :=
  if bytes ≠ 4 ∨ off % 4 ≠ 0 then .refused .portShape
  else if 256 ≤ off then .next (if write then s else { s with portData := 0#32 })
  else runCode (.regacc (accessWord write (BitVec.ofNat 8 off) (if write then data else 0#32))) s

/-- Serve one host event. -/
def serveHost (e : HostEvent) (s : State) : Result :=
  match e with
  | .access write off bytes data => hostAccess write off bytes data s
  | .writeIn a bs => s.hostWriteIn a bs
  | .readOut a => s.hostReadOut a
  | .reset => .next s.afterReset

/-! ## The turn -/

/-- One step: an operation in the issue slot; else the host's next request if the decoder waits or the request's wait is
used up; else the decoder's next visit. With nothing to do the block waits (R168; 60_exceptions.md R247). -/
def turn (s : State) : Result :=
  match s.issue with
  | some c => runCode c { s with issue := none }
  | none =>
    match s.host with
    | [] => if s.busy then decoderTurn s else .next s
    | r :: rest =>
      if s.busy && r.wait != 0 then decoderTurn { s with host := { r with wait := r.wait - 1 } :: rest }
      else serveHost r.event { s with host := rest }

/-- Put a table row's word where the next turn takes its operation from: the issue slot (log 3). -/
def State.placeTableWord (s : State) (nbits w : Nat) : State :=
  match codeOfTableWord nbits w with
  | none => s
  | some c => { s with issue := some c }

end Sys2Proof.Machine
end

