-- ==== Sys2Proof/Machine/Step.lean ====
section
/-! DEFINITION. One step of BC4U-DEC. -/

namespace Sys2Proof.Machine

/-- One step (`turn`). -/
def step (s : State) : Host.Outcome State Fault Refusal := turn s

/-- `s` with a table row's word placed so that the very next step runs it. -/
def State.withFetchWord (s : State) (nbits w : Nat) : State := s.placeTableWord nbits w

end Sys2Proof.Machine
end

