-- ==== Sys2Proof/Safety.lean ====
section
/-! DEFINITION. What a sound state is (`State.Inv`), and the spec's composite functions in its own arithmetic (`Spec`:
spec/00_scope.md R9, spec/42_block_decompress.md R195, spec/41_decode_dispatch.md R160, R166): the terms claims are
stated in. -/

namespace Sys2Proof.Spec

/-- `LE_N(buf, off)` of `n` bytes: the sum of R9. -/
def leSum (buf : Nat → Byte) (off n : Nat) : Nat := ∑ i ∈ Finset.range n, (buf (off + i)).toNat * 2 ^ (8 * i)

/-- `pal` of R195. -/
def palette (a0 a1 : Nat) : List Nat :=
  if a0 > a1 then [a0, a1] ++ (List.range' 1 6).map fun k => (a0 * (7 - k) + a1 * k) / 7
  else [a0, a1] ++ ((List.range' 1 4).map fun k => (a0 * (5 - k) + a1 * k) / 5) ++ [0, 255]

/-- `TILE[y][x]` of DECODE_BLOCK (R195) for the block at `base`: `pal[ V[3(4y+x)+2 : 3(4y+x)] ]`. -/
def tilePixel (buf : Nat → Byte) (base y x : Nat) : Nat :=
  (palette (buf base).toNat (buf (base + 1)).toNat).getD (leSum buf (base + 2) 6 / 2 ^ (3 * (4 * y + x)) % 8) 0

/-- `PLACE(t, order, TH, TW)` (R160). -/
def place (rowMajor : Bool) (th tw t : Nat) : Nat × Nat :=
  if rowMajor then (t / tw, t % tw) else (t % th, t / th)

/-- `W` (R166). -/
def width (buf : Nat → Byte) : Nat := leSum buf 0x10 4

/-- `H` (R166). -/
def height (buf : Nat → Byte) : Nat := leSum buf 0x0C 4

/-- `N` (R166). -/
def blocks (buf : Nat → Byte) : Nat := width buf * height buf / 16

/-- The error the checks before the block walk of DECODE (R166) raise, as its code and information (60_exceptions.md R221);
none if they all pass. -/
def checkError (buf : Nat → Byte) (len : Nat) (strict : Bool) (outCapacity : Nat) : Option (Nat × Nat) :=
  if len < 128 then some (2, len)
  else if strict = true ∧ (leSum buf 0x00 4 ≠ 0x20534444 ∨ leSum buf 0x04 4 ≠ 124) then
    some (3, (if leSum buf 0x00 4 ≠ 0x20534444 then 1 else 0) + (if leSum buf 0x04 4 ≠ 124 then 2 else 0))
  else if leSum buf 0x54 4 ≠ 0x55344342 then some (4, leSum buf 0x54 4)
  else if width buf % 4 ≠ 0 ∨ height buf % 4 ≠ 0 then
    some (5, (if width buf % 4 ≠ 0 then 1 else 0) + (if height buf % 4 ≠ 0 then 2 else 0))
  else if outCapacity < width buf * height buf then some (7, 0)
  else none

end Sys2Proof.Spec

namespace Sys2Proof.Machine

/-- The event is one the interface has: a 32-bit access at a multiple of 4 (20_memory.md R64), or an access to bytes that
exist (R60, R61). -/
def HostEvent.legal (s : State) : HostEvent → Prop
  | .access _ off bytes _ => bytes = 4 ∧ off % 4 = 0
  | .writeIn a bs => a + bs.length ≤ s.inCapacity
  | .readOut a => a < s.outCapacity
  | .reset => True

/-- `k` steps from `s` end in `t`. -/
def State.Runs (k : Nat) (s t : State) : Prop := Host.Core.run Sys2Proof.core k s = .next t

/-- The operations one after another, each from the state the one before it answered. -/
def execAll : List Instr → State → Result
  | [], s => .next s
  | i :: is, s =>
    match exec i s with
    | .next t => execAll is t
    | .fault f => .fault f
    | .refused r => .refused r

/-- The operations of the single-block decompression, in the order of 41_decode_dispatch.md R151. -/
def decompressOps : List Instr :=
  [.bdRefUnpack, .bdIdxAssemble, .bdIdxSplit, .bdPixelOrder, .bdModeSelect, .bdPalEndpoints, .bdPal6, .bdPal4] ++
  [.bdPal4Const, .bdSelect, .bdReshape]

/-- `t` is `s` after error entry with this code and information (60_exceptions.md R230): the phase ERROR, and every other
register and buffer byte as it was, but for the PixelArray's bytes of OUT, which are UNSPECIFIED (R231). The latches of the
lanes are UNSPECIFIED, since the operation has ended (10_state.md R24). -/
def State.ErrorEntered (s t : State) (code info : Nat) : Prop :=
  t.seq = .error ∧ t.errorCode.toNat = code ∧ t.errorInfo.toNat = info ∧ t.lanes = s.lanes ∧
  t = { s with seq := .error, errorCode := t.errorCode, errorInfo := t.errorInfo, outMem := t.outMem,
               outScrambles := t.outScrambles, lane := t.lane, otherLanes := t.otherLanes, draws := s.draws + 1 } ∧
  (∀ a, a < s.pixels → t.outMem.peek a = none) ∧ ∀ a, s.pixels ≤ a → t.outByte a = s.outByte a

/-- The header registers hold the words of IN (40_header_parser.md R131). -/
def State.fieldsRead (s : State) : Prop :=
  s.hdrMagic = s.inWord 0x00 ∧ s.hdrSize = s.inWord 0x04 ∧ s.hdrHeight = s.inWord 0x0C ∧ s.hdrWidth = s.inWord 0x10 ∧
  s.hdrFourcc = s.inWord 0x54

/-- The marker and the data offset are those of the code (R134, R135). -/
def State.formatRead (s : State) : Prop :=
  s.hdrDx10 = (s.inWord 0x54 == codeDx10) ∧ s.dataOffset = if s.hdrDx10 then 148#32 else 128#32

/-- Every error, header and result register holds 0 (10_state.md R30). -/
def State.resultsZero (s : State) : Prop :=
  s.errorCode = 0#4 ∧ s.errorInfo = 0#32 ∧ s.hdrMagic = 0#32 ∧ s.hdrSize = 0#32 ∧ s.hdrHeight = 0#32 ∧
  s.hdrWidth = 0#32 ∧ s.hdrFourcc = 0#32 ∧ s.hdrDx10 = false ∧ s.dataOffset = 0#32 ∧ s.blockCount = 0#64 ∧
  s.blockIndex = 0#64

/-- The image the checks of phase CHECK let through (41_decode_dispatch.md R152-R157). -/
def State.imageAccepted (s : State) : Prop :=
  s.hdrFourcc = codeBc4u ∧ s.hdrDx10 = false ∧ s.dataOffset = 128#32 ∧ s.width % 4 = 0 ∧ s.height % 4 = 0 ∧
  s.blockCount.toNat = s.pixels / 16 ∧ s.pixels ≤ s.outCapacity

/-- What holds of an operation before each visit (R168), and of its end. -/
def State.phaseSound (s : State) : Prop :=
  match s.seq with
  | .idle => s.resultsZero ∧ s.acked = true
  | .parse => s.resultsZero
  | .check => 128 ≤ s.opLen.toNat ∧ s.fieldsRead ∧ s.formatRead ∧ s.blockIndex = 0#64 ∧ s.blockCount = 0#64
  | .blocks => 128 ≤ s.opLen.toNat ∧ s.fieldsRead ∧ s.imageAccepted ∧ s.blockIndex.toNat < s.blockCount.toNat
  | .done => s.imageAccepted ∧ s.blockIndex = s.blockCount
  | .error =>
    2 ≤ s.errorCode.toNat ∧ s.errorCode.toNat ≤ 7 ∧ (s.errorCode ≠ 6#4 → s.blockIndex = 0#64) ∧
    (s.errorCode = 6#4 → s.blockIndex.toNat < s.blockCount.toNat ∧ s.errorInfo = s.blockIndex.extractLsb' 0 32)

/-- The sequencer's place in an operation that runs (10_state.md R26, R48): before phase BLOCKS nothing is counted, and in it
`t < N < 2^60`. -/
def State.walkSound (s : State) : Prop :=
  match s.seq with
  | .parse | .check => s.blockIndex = 0#64 ∧ s.blockCount = 0#64
  | .blocks => s.blockIndex.toNat < s.blockCount.toNat ∧ s.blockCount.toNat < 2 ^ 60
  | .idle | .done | .error => True

/-- A sound state: what every state of every run from reset is, with nothing in the issue slot. -/
structure State.Inv (s : State) : Prop where
  /-- The capacities are legal (00_scope.md R5). -/
  inCapacityLegal : Config.inCapacityLegal s.inCapacity
  outCapacityLegal : Config.outCapacityLegal s.outCapacity
  /-- The buffers are in canonical form and list only addresses that exist (20_memory.md R60, R61). -/
  inCanonical : s.inMem.wf = true
  inExists : ∀ a, s.inCapacity ≤ a → s.inMem.peek a = none
  outCanonical : s.outMem.wf = true
  outExists : ∀ a, s.outCapacity ≤ a → s.outMem.peek a = none
  /-- The decoder can never read past IN (10_state.md R39). -/
  lenFits : s.inputLen.toNat ≤ s.inCapacity
  opLenFits : s.opLen.toNat ≤ s.inCapacity
  /-- Nothing was handed to a unit from outside. -/
  issueEmpty : s.issue = none
  /-- An operation that runs is not acknowledged. -/
  busyUnacked : s.busy = true → s.acked = false
  /-- The BLOCK_INDEX shown while BUSY is at most N (10_state.md R49). -/
  shownBound : s.busy = true → s.progress ≤ s.blockCount
  /-- A spoiled operation runs, with its place in order, or has ended (20_memory.md R78). -/
  spoiledWalks : s.spoil = .running → s.busy = true ∧ s.walkSound
  endedStopped : s.spoil = .ended → s.seq = .done ∨ s.seq = .error
  /-- Code 0 is the value whenever STATE is not ERROR (60_exceptions.md R222), unless the results are UNSPECIFIED. -/
  codeZero : s.spoil ≠ .ended → s.seq ≠ .error → s.errorCode = 0#4 ∧ s.errorInfo = 0#32
  /-- An operation that the host has not spoiled is where its phase says. -/
  sound : s.spoil = .clean → s.phaseSound

/-- The host asks nothing before `k` decoder turns have passed (log 2). -/
def State.Undisturbed (s : State) (k : Nat) : Prop := ∀ r ∈ s.host.head?, k ≤ r.wait

/-- A sound state in which an operation has just been started (41_decode_dispatch.md R150). -/
def State.JustStarted (s : State) : Prop := s.Inv ∧ s.seq = .parse ∧ s.spoil = .clean

end Sys2Proof.Machine
end

