-- ==== Sys2Proof/Certificates/Slice0/Obligations.lean ====
section
/-! DEFINITION. The statements about BC4U-DEC, taken from the spec's numbered rules. Stated, not proved. -/

open Sys2Proof Sys2Proof.Machine

/-! ## Encoding -/

/-- Decoding and encoding agree, on values and on bytes: no bit of an operation is dropped, and a value stands for one
well-formed operation only (30_encoding.md R93, R94, R96, R97, R101). -/
def Obligations.DecodeAndEncodeAgree : Prop :=
  (∀ i : Instr, i.wellFormed = true → decode (encode i) = .ok i) ∧
  (∀ (c : Code) (i : Instr), decode c = .ok i → i.wellFormed = true ∧ encode i = c) ∧
  (∀ i : Instr, i.wellFormed = true → decodeBytes (encode i).format (encode i).toBytes = .ok i)

/-- Some words of the opcode table, written out from the spec (00_scope.md R11; 30_encoding.md R93-R97, R101, R103), and some
that are no operation. -/
def Obligations.TableWordsDecode : Prop :=
  decodeTableWord 32 0x55344342 = some .fmtBc4u ∧
  decodeTableWord 32 0x30315844 = some .fmtDx10 ∧
  decodeTableWord 32 0x55314342 = some (.fmtOther 0x55314342#32) ∧
  decodeTableWord 64 0xFAC688FAC68864C8 = some (.blkMode6 200#8 100#8 0xFAC688FAC688#48) ∧
  decodeTableWord 64 0x6DB6DB6DB6DBFF00 = some (.blkMode4 0#8 255#8 0x6DB6DB6DB6DB#48) ∧
  decode (.idx3 true 5 7#3) = .ok (.sel6E7 5) ∧
  decode (.idx3 false 5 6#3) = .ok (.sel4E6 5) ∧
  decodeTableWord 48 0x10000000005 = some (.cmdStart 5#32) ∧
  decodeTableWord 48 0x1000000000E = some (.cmdConfig 0xE#32) ∧
  decodeTableWord 48 0x11000000088 = some (.cmdSetlen 0x88#32) ∧
  decodeTableWord 48 0x11C00000001 = some (.regWrite 0x1C#8 1#32) ∧
  decodeTableWord 48 0x00400000000 = some (.regRead 0x04#8) ∧
  decodeTableWord 48 0x00500000000 = none ∧
  decode (.seq 1#3 2) = .ok .hpDx10Detect ∧
  decode (.seq 2#3 3) = .ok .dsCapacityCheck ∧
  decode (.seq 3#3 14) = .ok .sqAdvance ∧
  decode (.seq 3#3 15) = .error .placeOutOfRange ∧
  decode (.seq 4#3 0) = .error .noOperationInPhase

/-! ## The step -/

/-- A step runs decoded operations: from the issue slot (log 3) and from a table word placed there exactly the one; from a
host access served exactly the one; and in the decoder's turn those of one phase visit, in the phase's order
(41_decode_dispatch.md R151, R168, log 1; `runOps` is stated in `SequencerGoesOn`), whether no host request is pending or one still
waits, whose wait then goes down by one (log 2). A BLOCK visit is the next lane's (log 16). -/
def Obligations.StepRunsTheDecodedOperation : Prop :=
  (∀ (s : State) (nbits w : Nat) (i : Instr), decodeTableWord nbits w = some i →
    step (s.withFetchWord nbits w) = exec i { s with issue := none }) ∧
  (∀ (s : State) (c : Code) (i : Instr), s.issue = some c → decode c = .ok i →
    step s = exec i { s with issue := none }) ∧
  (∀ s : State, s.issue = none → s.busy = true → s.spoil = .clean →
    (s.host = [] → step s = runOps s.seq (phaseOps s.seq) s.enterVisit) ∧
    (∀ (r : Request) (rest : List Request), s.host = r :: rest → r.wait ≠ 0 →
      step s = runOps s.seq (phaseOps s.seq)
        ({ s with host := { r with wait := r.wait - 1 } :: rest } : State).enterVisit)) ∧
  (∀ s : State, (s.seq ≠ .blocks → s.enterVisit = s) ∧
    (s.seq = .blocks → ∀ l ls, s.otherLanes = l :: ls → s.enterVisit = { s with lane := l, otherLanes := ls ++ [s.lane] }) ∧
    (s.seq = .blocks → s.otherLanes = [] → s.enterVisit = s)) ∧
  (∀ (s : State) (r : Request) (rest : List Request) (w : Bool) (off : Nat) (data : Word) (i : Instr),
    s.issue = none → s.host = r :: rest → (s.busy = false ∨ r.wait = 0) → r.event = .access w off 4 data →
    off % 4 = 0 → off < 256 →
    decode (.regacc (accessWord w (BitVec.ofNat 8 off) (if w then data else 0#32))) = .ok i →
    step s = exec i { s with host := rest })

/-- The phase order (41_decode_dispatch.md R151) in a visit: the operations of a phase are those its code and their places
decode to, and no others; an operation that keeps the phase is followed by the next one; one that changes it ends the visit,
the next visit beginning with the new phase's first operation; after PARSE's last comes CHECK; a block's last ends its visit.
No operation of a visit leaves PARSE but by an error, and the last one of CHECK never stays in CHECK. -/
def Obligations.SequencerGoesOn : Prop :=
  (∀ (p : Phase) (k : Nat) (i : Instr), (phaseOps p)[k]? = some i ↔ decode (.seq (phaseCode p) k) = .ok i) ∧
  ((phaseOps .parse).length = 5 ∧ (phaseOps .check).length = 4 ∧ (phaseOps .blocks).length = 15 ∧
    phaseOps .idle = [] ∧ phaseOps .done = [] ∧ phaseOps .error = []) ∧
  (∀ (i : Instr) (is : List Instr) (s t : State), exec i s = .next t → t.seq = s.seq →
    runOps s.seq (i :: is) s = runOps t.seq is t) ∧
  (∀ (i : Instr) (is : List Instr) (s t : State), exec i s = .next t → t.seq ≠ s.seq →
    runOps s.seq (i :: is) s = .next t) ∧
  (∀ s : State, s.seq = .parse → runOps s.seq [] s = .next { s with seq := .check }) ∧
  (∀ s : State, s.seq = .blocks → runOps s.seq [] s = .next s) ∧
  (∀ (i : Instr) (s t : State), i ∈ phaseOps .parse → exec i s = .next t → t.seq = s.seq ∨ t.seq = .error) ∧
  (∀ s t : State, exec .dsCapacityCheck s = .next t → t.seq = .blocks ∨ t.seq = .done ∨ t.seq = .error)

/-- No decoder step is enabled in IDLE, DONE or ERROR: with nothing pending the block waits, unchanged (R168; 60_exceptions.md
R234, R235, R247). That a waiting step answers the same state is the model's choice (log 23). -/
def Obligations.WaitsWhenNoOperationRuns : Prop :=
  ∀ (k : Nat) (s : State), s.issue = none → s.host = [] →
    (s.seq = .idle ∨ s.seq = .done ∨ s.seq = .error) → s.Runs k s

/-! ## Reset -/

/-- After reset: the phase IDLE, every offset of the register port reads 0, `irq` 0, no byte of IN or OUT definite
(10_state.md R54). The latches' values are the model's choice (log 5) and are not stated. -/
def Obligations.ResetLeavesRegistersZero : Prop :=
  State.reset.seq = .idle ∧ (∀ off : Byte, State.reset.portRead off = 0#32) ∧ State.reset.irq = false ∧
  (∀ a, State.reset.inMem.peek a = none ∧ State.reset.outMem.peek a = none)

/-- The reset input, from any state between visits (70_reset_and_hazards.md R261): the operation is abandoned, STATE is IDLE,
ERROR_CODE 0, OUT UNSPECIFIED, every register 0; nothing resumes. -/
def Obligations.ResetAbandonsTheOperation : Prop :=
  ∀ (s : State) (r : Request) (rest : List Request), s.issue = none → s.host = r :: rest →
    (s.busy = false ∨ r.wait = 0) → r.event = .reset →
    ∃ t, step s = .next t ∧ t.seq = .idle ∧ statusOf t.seq = 0#2 ∧ t.errorCode = 0#4 ∧
      (∀ off : Byte, t.portRead off = 0#32) ∧ t.irq = false ∧ (∀ a, t.outMem.peek a = none) ∧
      (∀ a, t.inMem.peek a = none) ∧ t.inCapacity = s.inCapacity ∧ t.outCapacity = s.outCapacity ∧
      t.lanes = s.lanes ∧ (rest = [] → ∀ k u, t.Runs k u → u.seq = .idle)

/-! ## Invariants and whole-machine rules -/

/-- The state after reset is sound. -/
def Obligations.ResetIsSound : Prop := State.reset.Inv

/-- Every step keeps a sound state sound. -/
def Obligations.StepKeepsSoundness : Prop :=
  ∀ s t : State, s.Inv → step s = .next t → t.Inv

/-- From a sound state no step faults or is refused, unless the host's own next request is outside the interface. -/
def Obligations.SoundStepsDoNotStop : Prop :=
  ∀ s : State, s.Inv → (∀ r ∈ s.host.head?, r.event.legal s) → ∃ t, step s = .next t

/-- Every step, also one that runs an operation handed in from outside, keeps both buffers canonical and within their
capacities, and changes no parameter: neither capacity, nor LANES (20_memory.md R60, R61, R73; 00_scope.md R5). -/
def Obligations.StepKeepsBuffers : Prop :=
  ∀ s t : State, s.inMem.wf = true → s.outMem.wf = true → (∀ a, s.inCapacity ≤ a → s.inMem.peek a = none) →
    (∀ a, s.outCapacity ≤ a → s.outMem.peek a = none) → step s = .next t →
    t.inMem.wf = true ∧ t.outMem.wf = true ∧ (∀ a, t.inCapacity ≤ a → t.inMem.peek a = none) ∧
    (∀ a, t.outCapacity ≤ a → t.outMem.peek a = none) ∧ t.inCapacity = s.inCapacity ∧ t.outCapacity = s.outCapacity ∧
    t.lanes = s.lanes

/-- The sequencer advances only as R26 says, also in an operation under which the host wrote IN (20_memory.md R78): START leads
to PARSE; PARSE to CHECK or ERROR; CHECK to BLOCKS with t = 0 and N not 0, to DONE when N = 0, or to ERROR; within BLOCKS t goes
up in steps of 1 towards the same N; BLOCKS to DONE when t = N, or to ERROR; reset leads to IDLE. The registers BLOCK_COUNT and
BLOCK_INDEX of an operation that has ended show N and t unless the host wrote IN under it, when they are UNSPECIFIED (R78). -/
def Obligations.PhasesFollowTheSequencer : Prop :=
  ∀ s t : State, s.Inv → step s = .next t →
    (t.seq = s.seq ∧ (s.seq = .blocks →
      t.blockCount = s.blockCount ∧ (t.blockIndex = s.blockIndex ∨ t.blockIndex = s.blockIndex + 1#64) ∧
      t.blockIndex.toNat < t.blockCount.toNat)) ∨
    (t.seq = .idle ∧ ∃ r ∈ s.host.head?, r.event = .reset) ∨
    (s.busy = false ∧ t.seq = .parse ∧ ∃ r ∈ s.host.head?, ∃ d, r.event = .access true 0 4 d ∧ d.getLsbD 0 = true) ∨
    (s.seq = .parse ∧ (t.seq = .check ∨ t.seq = .error)) ∨
    (s.seq = .check ∧ ((t.seq = .blocks ∧ t.blockIndex = 0#64 ∧ t.blockCount ≠ 0#64 ∧ t.blockCount.toNat < 2 ^ 60) ∨
      (t.seq = .done ∧ (s.spoil = .clean → t.blockCount = 0#64)) ∨ t.seq = .error)) ∨
    (s.seq = .blocks ∧ ((t.seq = .done ∧ s.blockIndex + 1#64 = s.blockCount ∧
        (s.spoil = .clean → t.blockIndex = t.blockCount ∧ t.blockCount = s.blockCount)) ∨ t.seq = .error))

/-- While an operation runs, the only step that changes the configuration, INPUT_LEN or a value latched at START is one that
serves a reset, whose wait is used up (70_reset_and_hazards.md R271; 10_state.md R29): a second START has no effect. -/
def Obligations.ConfigurationIsFixedWhileBusy : Prop :=
  ∀ s t : State, s.busy = true → step s = .next t →
    ¬ (s.issue = none ∧ ∃ r ∈ s.host.head?, r.event = .reset ∧ r.wait = 0) →
    t.ctrlStrict = s.ctrlStrict ∧ t.ctrlTileOrder = s.ctrlTileOrder ∧ t.ctrlIe = s.ctrlIe ∧ t.inputLen = s.inputLen ∧
    t.opStrict = s.opStrict ∧ t.opOrder = s.opOrder ∧ t.opLen = s.opLen

/-- No operation writes IN (20_memory.md R60: "The decoder never writes it"). -/
def Obligations.NoOperationWritesIn : Prop :=
  ∀ (i : Instr) (s t : State), exec i s = .next t → ∀ a, t.inByte a = s.inByte a

/-- OUT is written by TA.TILE_WRITE alone (R61); any other operation leaves every byte of it as it was, or enters ERROR, where
the PixelArray's bytes lose their values and the others keep them (60_exceptions.md R231). -/
def Obligations.OnlyTileWriteWritesOut : Prop :=
  ∀ (i : Instr) (s t : State), exec i s = .next t → i ≠ .taTileWrite →
    (∀ a, t.outMem.peek a = s.outMem.peek a ∧ t.outByte a = s.outByte a) ∨
    (t.seq = .error ∧ ∀ a, (a < s.pixels → t.outMem.peek a = none) ∧ (s.pixels ≤ a → t.outByte a = s.outByte a))

/-- The interrupt level (60_exceptions.md R240): IE and (DONE or ERROR); it rises when an operation with IE = 1 ends in DONE or
ERROR; it falls when the host starts an operation, writes CTRL with IE = 0 while not BUSY, or resets the block, and only
then. -/
def Obligations.InterruptRisesAndFalls : Prop :=
  (∀ s : State, s.irq = true ↔ s.ctrlIe = true ∧ (statusOf s.seq = 2#2 ∨ statusOf s.seq = 3#2)) ∧
  (∀ s t : State, s.Inv → step s = .next t → s.busy = true → (t.seq = .done ∨ t.seq = .error) → t.irq = s.ctrlIe) ∧
  (∀ (s : State) (r : Request) (rest : List Request), s.issue = none → s.host = r :: rest → s.busy = false →
    (r.event = .reset ∨ ∃ d, r.event = .access true 0 4 d ∧ (d.getLsbD 0 = true ∨ d.getLsbD 3 = false)) →
    ∃ t, step s = .next t ∧ t.irq = false) ∧
  (∀ s t : State, s.Inv → step s = .next t → s.irq = true → t.irq = false →
    ∃ r ∈ s.host.head?, r.event = .reset ∨
      ∃ d, r.event = .access true 0 4 d ∧ (d.getLsbD 0 = true ∨ d.getLsbD 3 = false))

/-! ## The register port -/

/-- CMD_START (41_decode_dispatch.md R150): accepted when not BUSY, it stores the configuration, latches, clears and enters
PARSE with `irq` 0, and leaves the buffers, INPUT_LEN and the latches alone; while BUSY it is ignored. -/
def Obligations.StartBeginsAnOperation : Prop :=
  (∀ (wd : Word) (s : State), s.busy = true → exec (.cmdStart wd) s = .next s) ∧
  (∀ (wd : Word) (s : State), s.busy = false → ∃ t, exec (.cmdStart wd) s = .next t ∧
    t.ctrlStrict = wd.getLsbD 1 ∧ (t.ctrlTileOrder = .rowMajor ↔ wd.getLsbD 2 = true) ∧ t.ctrlIe = wd.getLsbD 3 ∧
    t.opStrict = t.ctrlStrict ∧ t.opOrder = t.ctrlTileOrder ∧ t.opLen = s.inputLen ∧
    t.resultsZero ∧ t.seq = .parse ∧ statusOf t.seq = 1#2 ∧ t.irq = false ∧
    t = { s with
      ctrlStrict := t.ctrlStrict, ctrlTileOrder := t.ctrlTileOrder, ctrlIe := t.ctrlIe
      opStrict := t.opStrict, opOrder := t.opOrder, opLen := t.opLen
      errorCode := 0#4, errorInfo := 0#32, hdrMagic := 0#32, hdrSize := 0#32, hdrHeight := 0#32, hdrWidth := 0#32
      hdrFourcc := 0#32, hdrDx10 := false, dataOffset := 0#32, blockCount := 0#64, blockIndex := 0#64
      seq := .parse, acked := false, progress := 0#64, spoil := .clean })

/-- A CTRL write with bit 0 = 0 (10_state.md R34): not BUSY, it updates bits 3:1 and nothing else; while BUSY it is ignored. -/
def Obligations.ConfigWritesControlBits : Prop :=
  (∀ (wd : Word) (s : State), s.busy = true → exec (.cmdConfig wd) s = .next s) ∧
  (∀ (wd : Word) (s : State), s.busy = false → ∃ t, exec (.cmdConfig wd) s = .next t ∧
    t.ctrlStrict = wd.getLsbD 1 ∧ (t.ctrlTileOrder = .rowMajor ↔ wd.getLsbD 2 = true) ∧ t.ctrlIe = wd.getLsbD 3 ∧
    t.portRead 0#8 = wd &&& 0xE#32 ∧
    t = { s with ctrlStrict := t.ctrlStrict, ctrlTileOrder := t.ctrlTileOrder, ctrlIe := t.ctrlIe })

/-- An INPUT_LEN write stores `min(v, IN_CAPACITY)`, and a read returns it (R39); while BUSY it is ignored (R29). -/
def Obligations.SetLengthClamps : Prop :=
  (∀ (len : Word) (s : State), s.busy = true → exec (.cmdSetlen len) s = .next s) ∧
  (∀ (len : Word) (s : State), s.busy = false → ∃ t, exec (.cmdSetlen len) s = .next t ∧
    t.inputLen.toNat = min len.toNat s.inCapacity ∧ t.portRead 0x10#8 = t.inputLen ∧ t = { s with inputLen := t.inputLen })

/-- Every other write is ignored, BUSY or not: read-only registers and reserved offsets (R29, R50). A host write at any offset
from 0x40 on changes nothing, also past the eight bits of an encoded offset (log 11). -/
def Obligations.OtherWritesAreIgnored : Prop :=
  (∀ (off : Byte) (data : Word) (s : State), off.toNat % 4 = 0 → off ≠ 0x00#8 → off ≠ 0x10#8 →
    exec (.regWrite off data) s = .next s) ∧
  (∀ (s : State) (r : Request) (rest : List Request) (off : Nat) (data : Word), s.issue = none → s.host = r :: rest →
    (s.busy = false ∨ r.wait = 0) → r.event = .access true off 4 data → off % 4 = 0 → 0x40 ≤ off →
    step s = .next { s with host := rest })

/-- A register read returns the register of the map (R30), reserved bits and offsets 0 (R35, R50), and changes nothing but the
value returned and, for a STATUS that is not BUSY, the acknowledgement: whenever no operation runs, and, for a register other
than BLOCK_INDEX, while an unspoiled one runs. A host read at any offset from 0x40 on returns 0 and changes nothing, also past the
eight bits of an encoded offset (log 11). -/
def Obligations.ReadsReturnTheRegisterMap : Prop :=
  (∀ (off : Byte) (s : State), off.toNat % 4 = 0 →
    (s.busy = false ∨ (s.spoil = .clean ∧ off ≠ 0x38#8 ∧ off ≠ 0x3C#8)) →
    ∃ t, exec (.regRead off) s = .next t ∧ t = { s with portData := t.portData, acked := t.acked } ∧
      t.acked = (s.acked || (off == 0x04#8 && !s.busy)) ∧
      (off = 0x00#8 → t.portData.toNat =
        s.ctrlStrict.toNat * 2 + (if s.ctrlTileOrder = .rowMajor then 4 else 0) + s.ctrlIe.toNat * 8) ∧
      (off = 0x04#8 → t.portData.toNat =
        match s.seq with | .idle => 0 | .parse | .check | .blocks => 1 | .done => 2 | .error => 3) ∧
      (off = 0x08#8 → t.portData.toNat = s.errorCode.toNat) ∧
      (off = 0x0C#8 → t.portData = s.errorInfo) ∧
      (off = 0x10#8 → t.portData = s.inputLen) ∧
      (off = 0x14#8 → t.portData = s.hdrMagic) ∧
      (off = 0x18#8 → t.portData = s.hdrSize) ∧
      (off = 0x1C#8 → t.portData = s.hdrHeight) ∧
      (off = 0x20#8 → t.portData = s.hdrWidth) ∧
      (off = 0x24#8 → t.portData = s.hdrFourcc) ∧
      (off = 0x28#8 → t.portData.toNat = s.hdrDx10.toNat) ∧
      (off = 0x2C#8 → t.portData = s.dataOffset) ∧
      (off = 0x30#8 → t.portData.toNat = s.blockCount.toNat % 2 ^ 32) ∧
      (off = 0x34#8 → t.portData.toNat = s.blockCount.toNat / 2 ^ 32) ∧
      (off = 0x38#8 → t.portData.toNat = s.blockIndex.toNat % 2 ^ 32) ∧
      (off = 0x3C#8 → t.portData.toNat = s.blockIndex.toNat / 2 ^ 32) ∧
      (0x40 ≤ off.toNat → t.portData = 0#32)) ∧
  (∀ (s : State) (r : Request) (rest : List Request) (off : Nat) (data : Word), s.issue = none → s.host = r :: rest →
    (s.busy = false ∨ r.wait = 0) → r.event = .access false off 4 data → off % 4 = 0 → 0x40 ≤ off →
    step s = .next { s with host := rest, portData := 0#32 })

/-- Reads of a BUSY block whose value is UNSPECIFIED: BLOCK_INDEX shows a value within 0 .. N, and not below the one shown
before in the same operation (R49; log 9). Once the host has written IN under the operation, its registers show free values
within their widths (20_memory.md R78; log 10), while STATUS, CTRL and INPUT_LEN still read as they are. The read changes
nothing else. -/
def Obligations.BusyReadsAreFreeWithinBounds : Prop :=
  (∀ (off : Byte) (s : State), (off = 0x38#8 ∨ off = 0x3C#8) → s.busy = true → s.spoil = .clean →
    s.progress ≤ s.blockCount →
    ∃ t, exec (.regRead off) s = .next t ∧ s.progress ≤ t.progress ∧ t.progress ≤ s.blockCount ∧
      t.portData.toNat = (if off = 0x38#8 then t.progress.toNat % 2 ^ 32 else t.progress.toNat / 2 ^ 32) ∧
      t = { s with portData := t.portData, progress := t.progress, draws := s.draws + 1 }) ∧
  (∀ (off : Byte) (s : State), off.toNat % 4 = 0 → s.busy = true → s.spoil ≠ .clean →
    ∃ t, exec (.regRead off) s = .next t ∧
      ((off = 0x08#8 ∨ off = 0x0C#8 ∨ (0x14 ≤ off.toNat ∧ off.toNat ≤ 0x3C)) →
        t = { s with portData := t.portData, draws := s.draws + 1 } ∧
        (off = 0x08#8 → t.portData.toNat < 16) ∧ (off = 0x28#8 → t.portData.toNat < 2)) ∧
      ((off = 0x00#8 ∨ off = 0x04#8 ∨ off = 0x10#8 ∨ 0x40 ≤ off.toNat) →
        t.portData = s.portRead off ∧ t = { s with portData := t.portData }))

/-- A register access that is not 32 bits at a multiple of 4 is refused (R64), as the host's access and as an operation. -/
def Obligations.OddAccessesAreRefused : Prop :=
  (∀ (s : State) (r : Request) (rest : List Request) (w : Bool) (off bytes : Nat) (data : Word),
    s.issue = none → s.host = r :: rest → (s.busy = false ∨ r.wait = 0) →
    r.event = .access w off bytes data → (bytes ≠ 4 ∨ off % 4 ≠ 0) → step s = .refused .portShape) ∧
  (∀ (off : Byte) (s : State), off.toNat % 4 ≠ 0 → exec (.regRead off) s = .refused .portShape) ∧
  (∀ (off : Byte) (data : Word) (s : State), off.toNat % 4 ≠ 0 → exec (.regWrite off data) s = .refused .portShape)

/-! ## The host's buffer accesses -/

/-- A host write to IN that nothing has to wait for (R52, R60): the bytes land, every other byte of IN and everything else
stays. -/
def Obligations.HostWritesLandInIn : Prop :=
  ∀ (s : State) (r : Request) (rest : List Request) (a : Nat) (bs : List Byte),
    s.issue = none → s.host = r :: rest → (s.busy = false ∨ r.wait = 0) → r.event = .writeIn a bs →
    a + bs.length ≤ s.inCapacity → s.acked = true →
    ∃ t, step s = .next t ∧ (∀ k (h : k < bs.length), t.inByte (a + k) = bs[k]) ∧
      (∀ x, x < a ∨ a + bs.length ≤ x → t.inByte x = s.inByte x) ∧ t = { s with host := rest, inMem := t.inMem }

/-- A host write to IN while an operation runs spoils it (R78): its results become UNSPECIFIED, it keeps running, and it still
ends, in DONE or ERROR, after finitely many steps. Its visits take the sequencer's way (10_state.md R26; 41_decode_dispatch.md
R168): PARSE to CHECK, CHECK to BLOCKS with t = 0 or to DONE, t up by one in each BLOCK visit and to DONE when t = N, or to ERROR.
Whether a visit raises an error is a free value, and so is N below 2^60 (10_state.md R48) where the CHECK visit is still to come
(log 10): from the PARSE visit the operation ends within 2^60 + 1 visits, from CHECK within 2^60, from block t within N - t. A
write after its end, before the host has read STATUS (70_reset_and_hazards.md R270), makes the results UNSPECIFIED as well. The
bytes land. Host requests may be pending if they wait (log 2). -/
def Obligations.SpoiledOperationsStillEnd : Prop :=
  (∀ (s : State) (a : Nat) (bs : List Byte), s.busy = true → s.acked = false → a + bs.length ≤ s.inCapacity →
    ∃ t, serveHost (.writeIn a bs) s = .next t ∧ t = { s with inMem := t.inMem, spoil := .running } ∧
      (∀ k (h : k < bs.length), t.inByte (a + k) = bs[k]) ∧ (∀ x, x < a ∨ a + bs.length ≤ x → t.inByte x = s.inByte x)) ∧
  (∀ (s : State) (a : Nat) (bs : List Byte), s.busy = false → s.acked = false → a + bs.length ≤ s.inCapacity →
    ∃ t, serveHost (.writeIn a bs) s = .next t ∧ t.spoil = .ended ∧ t.seq = s.seq ∧
      (∀ x, x < s.outCapacity → t.outMem.peek x = none) ∧ (∀ k (h : k < bs.length), t.inByte (a + k) = bs[k])) ∧
  (∀ s : State, s.issue = none → s.Undisturbed 1 → s.busy = true → s.spoil = .running →
    ∃ t, step s = .next t ∧ t.inMem = s.inMem ∧
      ((t.seq = .error ∧ t.spoil = .ended) ∨
      (t.spoil = .running ∧ s.seq = .parse ∧ t.seq = .check ∧ t.blockCount = s.blockCount ∧ t.blockIndex = s.blockIndex) ∨
      (t.spoil = .running ∧ s.seq = .check ∧ t.seq = .blocks ∧ t.blockIndex = 0#64 ∧ t.blockCount ≠ 0#64 ∧
        t.blockCount.toNat < 2 ^ 60) ∨
      (t.spoil = .ended ∧ s.seq = .check ∧ t.seq = .done) ∨
      (t.spoil = .running ∧ s.seq = .blocks ∧ t.seq = .blocks ∧ s.blockIndex + 1#64 ≠ s.blockCount ∧
        t.blockIndex = s.blockIndex + 1#64 ∧ t.blockCount = s.blockCount) ∨
      (t.spoil = .ended ∧ s.seq = .blocks ∧ t.seq = .done ∧ s.blockIndex + 1#64 = s.blockCount))) ∧
  (∀ (n : Nat) (s : State), s.Inv → s.Undisturbed n → s.spoil = .running →
    (s.seq = .parse → 2 ^ 60 + 1 ≤ n) → (s.seq = .check → 2 ^ 60 ≤ n) →
    (s.seq = .blocks → s.blockCount.toNat - s.blockIndex.toNat ≤ n) →
    ∃ k t, k ≤ n ∧ s.Runs k t ∧ (t.seq = .done ∨ t.seq = .error) ∧ t.spoil = .ended ∧
      (∀ x, x < s.outCapacity → t.outMem.peek x = none) ∧ t.inMem = s.inMem ∧ t.inputLen = s.inputLen ∧
      t.ctrlIe = s.ctrlIe)

/-- A host read of OUT (10_state.md R53; 20_memory.md R75, R76; 70_reset_and_hazards.md R272): once the host has read STATUS as
not BUSY it returns the byte; the read changes nothing else. -/
def Obligations.HostReadsOut : Prop :=
  ∀ (s : State) (r : Request) (rest : List Request) (a : Nat),
    s.issue = none → s.host = r :: rest → (s.busy = false ∨ r.wait = 0) → r.event = .readOut a →
    a < s.outCapacity →
    ∃ t, step s = .next t ∧ (s.acked = true → t.outData = s.outByte a ∧ t.draws = s.draws) ∧
      t = { s with host := rest, outData := t.outData, draws := t.draws }

/-- An access to a byte that does not exist faults (20_memory.md R60, R61; log 12): the host's, and in states that no run reaches
the decoder's. -/
def Obligations.AbsentAddressesFault : Prop :=
  (∀ (s : State) (a : Nat) (bs : List Byte), s.inCapacity < a + bs.length →
    serveHost (.writeIn a bs) s = .fault .inAddressAbsent) ∧
  (∀ (s : State) (a : Nat), s.outCapacity ≤ a → serveHost (.readOut a) s = .fault .outAddressAbsent) ∧
  (∀ s : State, s.inCapacity < s.dataOffset.toNat + 8 * s.blockIndex.toNat + 8 →
    s.dataOffset.toNat + 8 * s.blockIndex.toNat + 8 ≤ s.opLen.toNat →
    exec .sqBlockFetch s = .fault .inAddressAbsent) ∧
  (∀ s : State, s.inCapacity < 0x58 →
    exec .hpReadFields s = .fault .inAddressAbsent ∧ exec .hpDx10Detect s = .fault .inAddressAbsent ∧
    exec .dsFormatCheck s = .fault .inAddressAbsent) ∧
  (∀ (s : State) (y x : Fin 4),
    s.outCapacity ≤ (4 * s.lane.placeRow + y.val) * s.hdrWidth.toNat + (4 * s.lane.placeCol + x.val) →
    exec .taTileWrite s = .fault .outAddressAbsent)

/-! ## The format codes (30_encoding.md R93) -/

/-- R93: "BC4U" gives DX10 = 0 and D = 128 and the decode proceeds; "DX10" gives DX10 = 1 and D = 148 and UnsupportedFormat with
INFO 0x30315844; any other code DX10 = 0, D = 128 and UnsupportedFormat with INFO the word. -/
def Obligations.FormatCodesSelect : Prop :=
  (∀ s : State, exec .fmtBc4u s = .next { s with hdrDx10 := false, dataOffset := 128#32 }) ∧
  (∀ s : State, ∃ t, exec .fmtDx10 s = .next t ∧
    State.ErrorEntered { s with hdrDx10 := true, dataOffset := 148#32 } t 4 0x30315844) ∧
  (∀ (code : Word) (s : State), ∃ t, exec (.fmtOther code) s = .next t ∧
    State.ErrorEntered { s with hdrDx10 := false, dataOffset := 128#32 } t 4 code.toNat)

/-- The format code's selection is what HP.DX10_DETECT, HP.DATA_OFFSET and DS.FORMAT_CHECK together make of it. That the
selections are cut so is the model's reading (log 15). -/
def Obligations.FormatOperationsFollowTheCode : Prop :=
  ∀ s : State, 0x58 ≤ s.inCapacity → s.hdrFourcc = s.inWord 0x54 →
    execAll [.hpDx10Detect, .hpDataOffset, .dsFormatCheck] s = exec (decodeFourcc (s.inWord 0x54)) s

/-! ## The header parser (40_header_parser.md) -/

/-- HP.LENGTH_CHECK (R130). -/
def Obligations.LengthCheckNeedsAHeader : Prop :=
  ∀ s : State, ∃ t, exec .hpLengthCheck s = .next t ∧
    (s.opLen.toNat < 128 → s.ErrorEntered t 2 s.opLen.toNat) ∧ (128 ≤ s.opLen.toNat → t = s)

/-- HP.READ_FIELDS (R131). -/
def Obligations.ReadFieldsCopiesTheHeader : Prop :=
  ∀ s : State, 0x58 ≤ s.inCapacity → ∃ t, exec .hpReadFields s = .next t ∧
    t.hdrMagic.toNat = Spec.leSum s.inByte 0x00 4 ∧ t.hdrSize.toNat = Spec.leSum s.inByte 0x04 4 ∧
    t.hdrHeight.toNat = Spec.leSum s.inByte 0x0C 4 ∧ t.hdrWidth.toNat = Spec.leSum s.inByte 0x10 4 ∧
    t.hdrFourcc.toNat = Spec.leSum s.inByte 0x54 4 ∧
    t = { s with hdrMagic := t.hdrMagic, hdrSize := t.hdrSize, hdrHeight := t.hdrHeight, hdrWidth := t.hdrWidth,
                 hdrFourcc := t.hdrFourcc }

/-- HP.DX10_DETECT (R134) is the exact compare of four bytes with "DX10"; HP.DATA_OFFSET (R135) follows the marker. -/
def Obligations.MarkerAndDataOffset : Prop :=
  (∀ s : State, 0x58 ≤ s.inCapacity → ∃ t, exec .hpDx10Detect s = .next t ∧
    (t.hdrDx10 = true ↔
      s.inByte 0x54 = 0x44#8 ∧ s.inByte 0x55 = 0x58#8 ∧ s.inByte 0x56 = 0x31#8 ∧ s.inByte 0x57 = 0x30#8) ∧
    t = { s with hdrDx10 := t.hdrDx10 }) ∧
  (∀ s : State, ∃ t, exec .hpDataOffset s = .next t ∧ t.dataOffset.toNat = (if s.hdrDx10 = true then 148 else 128) ∧
    t = { s with dataOffset := t.dataOffset })

/-- HP.STRICT_CHECK (R137). -/
def Obligations.StrictCheckNamesWhatIsWrong : Prop :=
  ∀ s : State, ∃ t, exec .hpStrictCheck s = .next t ∧
    (s.opStrict = false ∨ (s.hdrMagic.toNat = 0x20534444 ∧ s.hdrSize.toNat = 124) → t = s) ∧
    (s.opStrict = true ∧ (s.hdrMagic.toNat ≠ 0x20534444 ∨ s.hdrSize.toNat ≠ 124) →
      s.ErrorEntered t 3
        ((if s.hdrMagic.toNat ≠ 0x20534444 then 1 else 0) + (if s.hdrSize.toNat ≠ 124 then 2 else 0)))

/-- Header round trip (R138): from a start with L >= 128, after the PARSE visit, one step (R168; log 1), the width, the height and
the code are the header's, whatever the other bytes hold, and DATA_OFFSET is 148 exactly for "DX10"; with STRICT = 0 the parse
then passes to CHECK, whatever the magic and the size hold. Any host request waits for the visit (log 2). -/
def Obligations.HeaderRoundTrip : Prop :=
  ∀ s : State, s.JustStarted → s.Undisturbed 1 → 128 ≤ s.opLen.toNat → ∃ t, s.Runs 1 t ∧
    t.hdrWidth.toNat = Spec.leSum s.inByte 0x10 4 ∧ t.hdrHeight.toNat = Spec.leSum s.inByte 0x0C 4 ∧
    t.hdrFourcc.toNat = Spec.leSum s.inByte 0x54 4 ∧
    t.dataOffset.toNat = (if Spec.leSum s.inByte 0x54 4 = 0x30315844 then 148 else 128) ∧
    (s.opStrict = false → t.seq = .check)

/-- The parser's result depends only on IN bytes 0x00..0x07, 0x0C..0x13, 0x54..0x57 and on L (R136), with the latched STRICT:
two starts that agree on those agree after the PARSE visit, one step (R168; log 1), on everything but IN, so on every header
register, on the error and on the phase. Any host request waits for the visit (log 2). -/
def Obligations.ParserReadsOnlyItsFields : Prop :=
  ∀ (s : State) (m : Memory), s.JustStarted → ({ s with inMem := m } : State).JustStarted → s.Undisturbed 1 →
    (∀ a, (a < 0x08 ∨ (0x0C ≤ a ∧ a < 0x14) ∨ (0x54 ≤ a ∧ a < 0x58)) →
      ({ s with inMem := m } : State).inByte a = s.inByte a) →
    ∃ t t', s.Runs 1 t ∧ ({ s with inMem := m } : State).Runs 1 t' ∧ t' = { t with inMem := m }

/-! ## The checks (41_decode_dispatch.md) -/

/-- DS.FORMAT_CHECK (R152): exact compare of the four bytes with "BC4U". -/
def Obligations.FormatCheckComparesFourBytes : Prop :=
  ∀ s : State, 0x58 ≤ s.inCapacity → ∃ t, exec .dsFormatCheck s = .next t ∧
    (s.inByte 0x54 = 0x42#8 ∧ s.inByte 0x55 = 0x43#8 ∧ s.inByte 0x56 = 0x34#8 ∧ s.inByte 0x57 = 0x55#8 → t = s) ∧
    (¬(s.inByte 0x54 = 0x42#8 ∧ s.inByte 0x55 = 0x43#8 ∧ s.inByte 0x56 = 0x34#8 ∧ s.inByte 0x57 = 0x55#8) →
      s.ErrorEntered t 4 s.hdrFourcc.toNat)

/-- DS.ALIGN_CHECK (R154). -/
def Obligations.AlignCheckNamesWhatIsMisaligned : Prop :=
  ∀ s : State, ∃ t, exec .dsAlignCheck s = .next t ∧
    (s.hdrWidth.toNat % 4 = 0 ∧ s.hdrHeight.toNat % 4 = 0 → t = s) ∧
    (s.hdrWidth.toNat % 4 ≠ 0 ∨ s.hdrHeight.toNat % 4 ≠ 0 →
      s.ErrorEntered t 5
        ((if s.hdrWidth.toNat % 4 ≠ 0 then 1 else 0) + (if s.hdrHeight.toNat % 4 ≠ 0 then 2 else 0)))

/-- DS.BLOCK_COUNT (R156): the product is exact; with both sizes multiples of 4 it is the number of tiles, below 2^60. -/
def Obligations.BlockCountIsExact : Prop :=
  ∀ s : State, ∃ t, exec .dsBlockCount s = .next t ∧
    t.blockCount.toNat = s.hdrWidth.toNat * s.hdrHeight.toNat / 16 ∧
    (s.hdrWidth.toNat % 4 = 0 → s.hdrHeight.toNat % 4 = 0 →
      t.blockCount.toNat = (s.hdrHeight.toNat / 4) * (s.hdrWidth.toNat / 4) ∧ t.blockCount.toNat < 2 ^ 60) ∧
    t = { s with blockCount := t.blockCount }

/-- DS.CAPACITY_CHECK (R157). With an operation's end the latches are UNSPECIFIED (10_state.md R24; log 5). -/
def Obligations.CapacityCheckEndsThePhase : Prop :=
  ∀ s : State, ∃ t, exec .dsCapacityCheck s = .next t ∧
    (s.outCapacity < s.hdrWidth.toNat * s.hdrHeight.toNat → s.ErrorEntered t 7 0) ∧
    (s.hdrWidth.toNat * s.hdrHeight.toNat ≤ s.outCapacity → s.blockCount.toNat = 0 →
      t = { s with seq := .done, lane := t.lane, otherLanes := t.otherLanes, draws := s.draws + 1 } ∧ t.lanes = s.lanes) ∧
    (s.hdrWidth.toNat * s.hdrHeight.toNat ≤ s.outCapacity → s.blockCount.toNat ≠ 0 →
      t = { s with seq := .blocks, blockIndex := 0#64 })

/-! ## The block sequencer and the tile assembler (41_decode_dispatch.md) -/

/-- SQ.BLOCK_FETCH (R158). -/
def Obligations.BlockFetchTakesEightBytes : Prop :=
  ∀ s : State, s.opLen.toNat ≤ s.inCapacity → ∃ t, exec .sqBlockFetch s = .next t ∧
    (s.opLen.toNat < s.dataOffset.toNat + 8 * s.blockIndex.toNat + 8 →
      s.ErrorEntered t 6 (s.blockIndex.toNat % 2 ^ 32) ∧ t.blockIndex = s.blockIndex) ∧
    (s.dataOffset.toNat + 8 * s.blockIndex.toNat + 8 ≤ s.opLen.toNat →
      t = { s with lane.blk := t.lane.blk } ∧
      ∀ i : Fin 8, t.lane.blk[i] = s.inByte (s.dataOffset.toNat + 8 * s.blockIndex.toNat + i.val))

/-- TA.TILE_PLACE (R160), whenever there is a tile. -/
def Obligations.TilePlaceFollowsTheOrder : Prop :=
  ∀ s : State, 4 ≤ s.hdrWidth.toNat → 4 ≤ s.hdrHeight.toNat → ∃ t, exec .taTilePlace s = .next t ∧
    (s.opOrder = .columnMajor → t.lane.placeRow = s.blockIndex.toNat % (s.hdrHeight.toNat / 4) ∧
      t.lane.placeCol = s.blockIndex.toNat / (s.hdrHeight.toNat / 4)) ∧
    (s.opOrder = .rowMajor → t.lane.placeRow = s.blockIndex.toNat / (s.hdrWidth.toNat / 4) ∧
      t.lane.placeCol = s.blockIndex.toNat % (s.hdrWidth.toNat / 4)) ∧
    t = { s with lane.placeRow := t.lane.placeRow, lane.placeCol := t.lane.placeCol }

/-- TA.TILE_PLACE with no tile row or no tile column, where R160 gives no place and no run gets: the operation still completes,
and only the place, which is a free value, changes. The model's choice (log 17). -/
def Obligations.TilePlaceWithoutATileIsFree : Prop :=
  ∀ s : State, (s.hdrWidth.toNat < 4 ∨ s.hdrHeight.toNat < 4) → ∃ t, exec .taTilePlace s = .next t ∧
    t = { s with lane.placeRow := t.lane.placeRow, lane.placeCol := t.lane.placeCol, draws := s.draws + 2 }

/-- TA.TILE_WRITE (R161): each pixel goes to its address, and every other byte of OUT, and everything else, stays. The values
are stated for W >= 4, where the sixteen addresses differ (R162); the frame for every W. -/
def Obligations.TileWriteStoresSixteenBytes : Prop :=
  ∀ s : State,
    (∀ y x : Fin 4, (4 * s.lane.placeRow + y.val) * s.hdrWidth.toNat + (4 * s.lane.placeCol + x.val) < s.outCapacity) →
    ∃ t, exec .taTileWrite s = .next t ∧
      (4 ≤ s.hdrWidth.toNat → ∀ y x : Fin 4,
        t.outByte ((4 * s.lane.placeRow + y.val) * s.hdrWidth.toNat + (4 * s.lane.placeCol + x.val)) = s.lane.tile[y][x]) ∧
      (∀ a, (∀ y x : Fin 4, a ≠ (4 * s.lane.placeRow + y.val) * s.hdrWidth.toNat + (4 * s.lane.placeCol + x.val)) →
        t.outByte a = s.outByte a) ∧
      t = { s with outMem := t.outMem }

/-- The placement law (R162), for either order: the places of the N blocks are the tile grid's, each once; every byte of the
PixelArray is an address of exactly one of the N placed tiles, and every address of one is a byte of the PixelArray. -/
def Obligations.TilesPartitionThePixelArray : Prop :=
  ∀ s : State, s.hdrWidth.toNat % 4 = 0 → s.hdrHeight.toNat % 4 = 0 → s.pixels ≠ 0 →
    let placed (b : DWord) (t : State) := b.toNat < s.pixels / 16 ∧ exec .taTilePlace { s with blockIndex := b } = .next t
    (∀ b t, placed b t → t.lane.placeRow < s.hdrHeight.toNat / 4 ∧ t.lane.placeCol < s.hdrWidth.toNat / 4) ∧
    (∀ r c, r < s.hdrHeight.toNat / 4 → c < s.hdrWidth.toNat / 4 →
      ∃ b t, placed b t ∧ t.lane.placeRow = r ∧ t.lane.placeCol = c ∧
        ∀ b' t', placed b' t' → t'.lane.placeRow = r → t'.lane.placeCol = c → b' = b) ∧
    (∀ a, a < s.hdrHeight.toNat * s.hdrWidth.toNat → ∃ b t, placed b t ∧ (∃ v, (a, v) ∈ t.tileCells) ∧
      ∀ b' t', placed b' t' → (∃ v, (a, v) ∈ t'.tileCells) → b' = b) ∧
    (∀ b t, placed b t →
      (t.tileCells.map Prod.fst).Nodup ∧ ∀ c ∈ t.tileCells, c.1 < s.hdrHeight.toNat * s.hdrWidth.toNat)

/-- SQ.ADVANCE (R163): t goes up by 1, and the operation is DONE when it reaches N; for t < N it does not wrap. With the
operation's end the latches are UNSPECIFIED (10_state.md R24; log 5). -/
def Obligations.AdvanceCountsBlocks : Prop :=
  ∀ s : State, ∃ t, exec .sqAdvance s = .next t ∧ t.blockIndex = s.blockIndex + 1#64 ∧
    (s.blockIndex.toNat < s.blockCount.toNat → t.blockIndex.toNat = s.blockIndex.toNat + 1) ∧
    (t.blockIndex.toNat = s.blockCount.toNat → t.lanes = s.lanes ∧
      t = { s with blockIndex := t.blockIndex, seq := .done, lane := t.lane, otherLanes := t.otherLanes,
                   draws := s.draws + 1 }) ∧
    (t.blockIndex.toNat ≠ s.blockCount.toNat → t = { s with blockIndex := t.blockIndex })

/-! ## Single-block decompression (42_block_decompress.md) -/

/-- BD.REF_UNPACK (R180). -/
def Obligations.RefUnpackTakesTwoBytes : Prop :=
  ∀ s : State, exec .bdRefUnpack s = .next { s with lane.a0 := s.lane.blk[0], lane.a1 := s.lane.blk[1] }

/-- BD.IDX_ASSEMBLE (R182): the 48-bit little-endian value, which is the bytes 7 .. 2, most significant first, and the two
24-bit little-endian groups (20_memory.md R66). -/
def Obligations.IndexFieldIsLittleEndian : Prop :=
  ∀ s : State, ∃ t, exec .bdIdxAssemble s = .next t ∧ t = { s with lane.idx := t.lane.idx } ∧
    t.lane.idx = s.lane.blk[7] ++ s.lane.blk[6] ++ s.lane.blk[5] ++ s.lane.blk[4] ++ s.lane.blk[3] ++ s.lane.blk[2] ∧
    t.lane.idx.toNat = Spec.leSum (fun k => s.lane.blk.toList.getD k 0#8) 2 6 ∧
    t.lane.idx.toNat = Spec.leSum (fun k => s.lane.blk.toList.getD k 0#8) 5 3 * 2 ^ 24 +
      Spec.leSum (fun k => s.lane.blk.toList.getD k 0#8) 2 3

/-- BD.IDX_SPLIT reads the index field "most-significant-group first" (R183); BD.PIXEL_ORDER puts the groups in pixel order
(R184), so that after both SEL[p] = IDX[3p+2 : 3p]. -/
def Obligations.IndicesAreSplitAndOrdered : Prop :=
  (∀ s : State, ∃ t, exec .bdIdxSplit s = .next t ∧ t = { s with lane.ext := t.lane.ext } ∧
    ∀ j : Fin 16, t.lane.ext[j].toNat = s.lane.idx.toNat / 2 ^ (45 - 3 * j.val) % 8) ∧
  (∀ s : State, ∃ t, exec .bdPixelOrder s = .next t ∧ t = { s with lane.sel := t.lane.sel } ∧
    t.lane.sel.toList = (s.lane.ext.toList.drop 8).reverse ++ (s.lane.ext.toList.take 8).reverse) ∧
  (∀ s : State, ∃ t, execAll [.bdIdxSplit, .bdPixelOrder] s = .next t ∧
    ∀ p : Fin 16, t.lane.sel[p].toNat = s.lane.idx.toNat / 2 ^ (3 * p.val) % 8)

/-- BD.MODE_SELECT (R188): unsigned compare; equal values give the 4-value mode. -/
def Obligations.ModeSelectComparesReferences : Prop :=
  ∀ s : State, ∃ t, exec .bdModeSelect s = .next t ∧
    (t.lane.mode = true ↔ s.lane.a0.toNat > s.lane.a1.toNat) ∧ t = { s with lane.mode := t.lane.mode }

/-- The palette operations: BD.PAL_ENDPOINTS writes entries 0 and 1 in both modes (R189); BD.PAL6 entries 2 to 7 in the
6-value mode only, truncated (R190); BD.PAL4 entries 2 to 5 in the 4-value mode only, truncated, the weights summing to 5
(R191); BD.PAL4_CONST 0 and 255 in the 4-value mode only, whatever the references (R192). -/
def Obligations.PaletteOperationsWriteTheEntries : Prop :=
  (∀ s : State, ∃ t, exec .bdPalEndpoints s = .next t ∧ t.lane.pal[0] = s.lane.a0 ∧ t.lane.pal[1] = s.lane.a1 ∧
    (∀ i : Fin 8, 2 ≤ i.val → t.lane.pal[i] = s.lane.pal[i]) ∧ t = { s with lane.pal := t.lane.pal }) ∧
  (∀ s : State, s.lane.mode = false → exec .bdPal6 s = .next s) ∧
  (∀ s : State, s.lane.mode = true → ∃ t, exec .bdPal6 s = .next t ∧ t = { s with lane.pal := t.lane.pal } ∧
    t.lane.pal[0] = s.lane.pal[0] ∧ t.lane.pal[1] = s.lane.pal[1] ∧
    t.lane.pal[2].toNat = (6 * s.lane.a0.toNat + 1 * s.lane.a1.toNat) / 7 ∧
    t.lane.pal[3].toNat = (5 * s.lane.a0.toNat + 2 * s.lane.a1.toNat) / 7 ∧
    t.lane.pal[4].toNat = (4 * s.lane.a0.toNat + 3 * s.lane.a1.toNat) / 7 ∧
    t.lane.pal[5].toNat = (3 * s.lane.a0.toNat + 4 * s.lane.a1.toNat) / 7 ∧
    t.lane.pal[6].toNat = (2 * s.lane.a0.toNat + 5 * s.lane.a1.toNat) / 7 ∧
    t.lane.pal[7].toNat = (1 * s.lane.a0.toNat + 6 * s.lane.a1.toNat) / 7) ∧
  (∀ s : State, s.lane.mode = true → exec .bdPal4 s = .next s) ∧
  (∀ s : State, s.lane.mode = false → ∃ t, exec .bdPal4 s = .next t ∧ t = { s with lane.pal := t.lane.pal } ∧
    t.lane.pal[0] = s.lane.pal[0] ∧ t.lane.pal[1] = s.lane.pal[1] ∧ t.lane.pal[6] = s.lane.pal[6] ∧
    t.lane.pal[7] = s.lane.pal[7] ∧
    t.lane.pal[2].toNat = (4 * s.lane.a0.toNat + 1 * s.lane.a1.toNat) / 5 ∧
    t.lane.pal[3].toNat = (3 * s.lane.a0.toNat + 2 * s.lane.a1.toNat) / 5 ∧
    t.lane.pal[4].toNat = (2 * s.lane.a0.toNat + 3 * s.lane.a1.toNat) / 5 ∧
    t.lane.pal[5].toNat = (1 * s.lane.a0.toNat + 4 * s.lane.a1.toNat) / 5) ∧
  (∀ s : State, s.lane.mode = true → exec .bdPal4Const s = .next s) ∧
  (∀ s : State, s.lane.mode = false → ∃ t, exec .bdPal4Const s = .next t ∧ t = { s with lane.pal := t.lane.pal } ∧
    t.lane.pal[6].toNat = 0 ∧ t.lane.pal[7].toNat = 255 ∧ ∀ i : Fin 8, i.val < 6 → t.lane.pal[i] = s.lane.pal[i])

/-- The order of the entries (R199) and the degenerate palette (R200), of the palette that the five palette operations build:
non-increasing from A0 to A1 in the 6-value mode, non-decreasing in the 4-value mode; with equal references
`[v, v, v, v, v, v, 0, 255]`. -/
def Obligations.PaletteIsOrdered : Prop :=
  ∀ s : State, ∃ t, execAll [.bdModeSelect, .bdPalEndpoints, .bdPal6, .bdPal4, .bdPal4Const] s = .next t ∧
    t.lane.pal[0] = s.lane.a0 ∧ t.lane.pal[1] = s.lane.a1 ∧
    (s.lane.a0.toNat > s.lane.a1.toNat → t.lane.pal[0] ≥ t.lane.pal[2] ∧ t.lane.pal[2] ≥ t.lane.pal[3] ∧
      t.lane.pal[3] ≥ t.lane.pal[4] ∧ t.lane.pal[4] ≥ t.lane.pal[5] ∧
      t.lane.pal[5] ≥ t.lane.pal[6] ∧ t.lane.pal[6] ≥ t.lane.pal[7] ∧ t.lane.pal[7] ≥ t.lane.pal[1]) ∧
    (s.lane.a0.toNat ≤ s.lane.a1.toNat → t.lane.pal[0] ≤ t.lane.pal[2] ∧ t.lane.pal[2] ≤ t.lane.pal[3] ∧
      t.lane.pal[3] ≤ t.lane.pal[4] ∧ t.lane.pal[4] ≤ t.lane.pal[5] ∧
      t.lane.pal[5] ≤ t.lane.pal[1]) ∧
    (∀ v, s.lane.a0 = v → s.lane.a1 = v → t.lane.pal = #v[v, v, v, v, v, v, 0#8, 255#8])

/-- BD.SELECT (R193): sixteen independent lanes; BD.RESHAPE (R194): row y is PIX[4y .. 4y+3]. -/
def Obligations.SelectAndReshape : Prop :=
  (∀ s : State, ∃ t, exec .bdSelect s = .next t ∧ t = { s with lane.pix := t.lane.pix } ∧
    ∀ p : Fin 16, s.lane.pal.toList[s.lane.sel[p].toNat]? = some t.lane.pix[p]) ∧
  (∀ s : State, ∃ t, exec .bdReshape s = .next t ∧ t = { s with lane.tile := t.lane.tile } ∧
    ∀ y x : Fin 4, s.lane.pix.toList[4 * y.val + x.val]? = some t.lane.tile[y][x])

/-- The palette-mode selections (30_encoding.md R96, R97): a block word whose first reference is greater gives the 6-value
palette, any other the 4-value palette. That they also latch the word's fields is the model's reading (log 14). -/
def Obligations.BlockModesBuildPalettes : Prop :=
  (∀ (a0 a1 : Byte) (idx : BitVec 48) (s : State), a0.toNat > a1.toNat → ∃ t, exec (.blkMode6 a0 a1 idx) s = .next t ∧
    t.lane.mode = true ∧ t.lane.pal.toList.map BitVec.toNat = Spec.palette a0.toNat a1.toNat ∧
    t = { s with lane.a0 := a0, lane.a1 := a1, lane.idx := idx, lane.mode := t.lane.mode, lane.pal := t.lane.pal }) ∧
  (∀ (a0 a1 : Byte) (idx : BitVec 48) (s : State), a0.toNat ≤ a1.toNat → ∃ t, exec (.blkMode4 a0 a1 idx) s = .next t ∧
    t.lane.mode = false ∧ t.lane.pal.toList.map BitVec.toNat = Spec.palette a0.toNat a1.toNat ∧
    t = { s with lane.a0 := a0, lane.a1 := a1, lane.idx := idx, lane.mode := t.lane.mode, lane.pal := t.lane.pal })

/-- The palette operations follow the block's mode selection: MODE_SELECT, PAL_ENDPOINTS, PAL6, PAL4 and PAL4_CONST on a
block's fields do what the selection its word decodes to does (log 14). -/
def Obligations.PaletteOperationsFollowTheBlockWord : Prop :=
  ∀ (q : DWord) (s : State),
    execAll [.bdModeSelect, .bdPalEndpoints, .bdPal6, .bdPal4, .bdPal4Const]
        { s with lane.a0 := blockA0 q, lane.a1 := blockA1 q, lane.idx := blockIdx q } =
      exec (decodeBlock q) s

/-- The index selections of both modes (R97): in one lane, the entry's value; every other pixel and everything else stays.
That a selection acts in one lane is the model's reading (log 13). -/
def Obligations.IndexSelectionsPickEntries : Prop :=
  ∀ (lane : Fin 16) (s : State),
    let selects (i : Instr) (v : Nat) := ∃ t, exec i s = .next t ∧ t.lane.pix[lane].toNat = v ∧
      (∀ p : Fin 16, p ≠ lane → t.lane.pix[p] = s.lane.pix[p]) ∧ t = { s with lane.pix := t.lane.pix }
    (selects (.sel6E0 lane) s.lane.a0.toNat ∧ selects (.sel6E1 lane) s.lane.a1.toNat ∧
      selects (.sel6E2 lane) ((6 * s.lane.a0.toNat + 1 * s.lane.a1.toNat) / 7) ∧
      selects (.sel6E3 lane) ((5 * s.lane.a0.toNat + 2 * s.lane.a1.toNat) / 7) ∧
      selects (.sel6E4 lane) ((4 * s.lane.a0.toNat + 3 * s.lane.a1.toNat) / 7) ∧
      selects (.sel6E5 lane) ((3 * s.lane.a0.toNat + 4 * s.lane.a1.toNat) / 7) ∧
      selects (.sel6E6 lane) ((2 * s.lane.a0.toNat + 5 * s.lane.a1.toNat) / 7) ∧
      selects (.sel6E7 lane) ((1 * s.lane.a0.toNat + 6 * s.lane.a1.toNat) / 7)) ∧
    (selects (.sel4E0 lane) s.lane.a0.toNat ∧ selects (.sel4E1 lane) s.lane.a1.toNat ∧
      selects (.sel4E2 lane) ((4 * s.lane.a0.toNat + 1 * s.lane.a1.toNat) / 5) ∧
      selects (.sel4E3 lane) ((3 * s.lane.a0.toNat + 2 * s.lane.a1.toNat) / 5) ∧
      selects (.sel4E4 lane) ((2 * s.lane.a0.toNat + 3 * s.lane.a1.toNat) / 5) ∧
      selects (.sel4E5 lane) ((1 * s.lane.a0.toNat + 4 * s.lane.a1.toNat) / 5) ∧
      selects (.sel4E6 lane) 0 ∧ selects (.sel4E7 lane) 255)

/-- BD.SELECT does in every lane what the index selection decoded from that lane's index and the block's mode does, when PAL
is the palette of the references (R97, R193). -/
def Obligations.SelectFollowsTheIndexSelections : Prop :=
  ∀ s : State, s.lane.pal.toList.map BitVec.toNat = Spec.palette s.lane.a0.toNat s.lane.a1.toNat →
    s.lane.mode = decide (s.lane.a0.toNat > s.lane.a1.toNat) →
    ∃ t, exec .bdSelect s = .next t ∧ ∀ p : Fin 16, ∃ u, exec (decodeIdx3 s.lane.mode p s.lane.sel[p]) s = .next u ∧
      t.lane.pix[p] = u.lane.pix[p]

/-- DECODE_BLOCK (R195): the operations of the single-block decompression, run in order on any eight bytes, give the tile
whose pixel (y, x) is `pal[ V[3(4y+x)+2 : 3(4y+x)] ]`, raise nothing (R201), and write only the block's latches. -/
def Obligations.DecompressionIsDecodeBlock : Prop :=
  ∀ s : State, ∃ t, execAll decompressOps s = .next t ∧
    (∀ y x : Fin 4, t.lane.tile[y][x].toNat = Spec.tilePixel (fun k => s.lane.blk.toList.getD k 0#8) 0 y.val x.val) ∧
    t = { s with lane := t.lane } ∧ t.lane.blk = s.lane.blk ∧ t.lane.placeRow = s.lane.placeRow ∧
    t.lane.placeCol = s.lane.placeCol

/-! ## The whole operation (41_decode_dispatch.md R166) -/

/-- An operation whose file fails a check before the block walk ends in ERROR with the first error in the order of
60_exceptions.md R232, one only (R233), after the PARSE visit or the CHECK visit (R168; log 1), and reads no block; OUT keeps
every byte above the PixelArray. Any host request waits for the visits (log 2). -/
def Obligations.FirstFailedCheckIsReported : Prop :=
  ∀ (s : State) (code info : Nat), s.JustStarted → s.Undisturbed 2 →
    Spec.checkError s.inByte s.opLen.toNat s.opStrict s.outCapacity = some (code, info) →
    ∃ t, s.Runs (if code ≤ 3 then 1 else 2) t ∧ t.seq = .error ∧ t.errorCode.toNat = code ∧ t.errorInfo.toNat = info ∧
      t.blockIndex = 0#64 ∧ t.inMem = s.inMem ∧ t.inputLen = s.inputLen ∧ t.ctrlIe = s.ctrlIe ∧
      ∀ a, Spec.width s.inByte * Spec.height s.inByte ≤ a → t.outByte a = s.outByte a

/-- DECODE (R166, R164): an operation whose file passes the checks and holds its N blocks ends in DONE after N + 2 decoder
steps (R168; log 1), for which any host request waits (log 2); OUT then holds, for every block and pixel, DECODE_BLOCK's value at the place of the block, and every byte past
the PixelArray as before; BLOCK_INDEX is N and ERROR_CODE 0. -/
def Obligations.OperationDecodesTheImage : Prop :=
  ∀ s : State, s.JustStarted → s.Undisturbed (Spec.blocks s.inByte + 2) →
    Spec.checkError s.inByte s.opLen.toNat s.opStrict s.outCapacity = none →
    128 + 8 * Spec.blocks s.inByte ≤ s.opLen.toNat →
    ∃ t, s.Runs (Spec.blocks s.inByte + 2) t ∧ t.seq = .done ∧ t.errorCode = 0#4 ∧
      t.blockIndex.toNat = Spec.blocks s.inByte ∧ t.blockCount.toNat = Spec.blocks s.inByte ∧
      t.hdrWidth.toNat = Spec.width s.inByte ∧ t.hdrHeight.toNat = Spec.height s.inByte ∧ t.inMem = s.inMem ∧
      (∀ b, b < Spec.blocks s.inByte → ∀ y x : Fin 4,
        let place := Spec.place (decide (s.opOrder = .rowMajor)) (Spec.height s.inByte / 4) (Spec.width s.inByte / 4) b
        t.outMem.peek ((4 * place.1 + y.val) * Spec.width s.inByte + (4 * place.2 + x.val)) =
          some (BitVec.ofNat 8 (Spec.tilePixel s.inByte (128 + 8 * b) y.val x.val))) ∧
      ∀ a, Spec.width s.inByte * Spec.height s.inByte ≤ a → t.outByte a = s.outByte a

/-- A data region shorter than the N blocks (R158; 60_exceptions.md R228): the operation ends in ERROR with InvalidBlockSize, and
BLOCK_INDEX is the first block whose eight bytes do not lie below L, INFO its low 32 bits; it takes the PARSE and CHECK visits
and one for each block up to that one, at most N + 2 (R168; log 1), for which any host request waits (log 2). -/
def Obligations.ShortDataNamesTheFirstMissingBlock : Prop :=
  ∀ s : State, s.JustStarted → s.Undisturbed (Spec.blocks s.inByte + 2) →
    Spec.checkError s.inByte s.opLen.toNat s.opStrict s.outCapacity = none →
    s.opLen.toNat < 128 + 8 * Spec.blocks s.inByte →
    ∃ t, s.Runs (t.blockIndex.toNat + 3) t ∧ t.seq = .error ∧ t.errorCode.toNat = 6 ∧
      t.blockIndex.toNat < Spec.blocks s.inByte ∧
      128 + 8 * t.blockIndex.toNat ≤ s.opLen.toNat ∧ s.opLen.toNat < 128 + 8 * t.blockIndex.toNat + 8 ∧
      t.errorInfo.toNat = t.blockIndex.toNat % 2 ^ 32 ∧ t.inMem = s.inMem
end

