-- ==== Sys2Proof/Laws/Codec.lean ====
section
/-! SUPPORT. Laws of the decoder and encoder: little-endian bytes, the fields of a block and of a register access. -/

namespace Sys2Proof

@[simp] theorem leBytes_length (n v : Nat) : (leBytes n v).length = n := by
  induction n generalizing v with
  | zero => rfl
  | succ n ih => simp [leBytes, ih]

theorem leNat_lt (bs : List Byte) : leNat bs < 256 ^ bs.length := by
  induction bs with
  | nil => simp [leNat]
  | cons b bs ih =>
    have := b.isLt
    simp only [leNat, List.length_cons, Nat.pow_succ]
    omega

theorem leNat_leBytes (n v : Nat) : leNat (leBytes n v) = v % 256 ^ n := by
  induction n generalizing v with
  | zero => simp [leNat, leBytes, Nat.mod_one]
  | succ n ih =>
    have h : v % 256 ^ (n + 1) = v % 256 + 256 * (v / 256 % 256 ^ n) := by
      rw [Nat.pow_succ, Nat.mul_comm, Nat.mod_mul]
    simp [leNat, leBytes, ih, h]

theorem leBytes_leNat (bs : List Byte) : leBytes bs.length (leNat bs) = bs := by
  induction bs with
  | nil => rfl
  | cons b bs ih =>
    have hb := b.isLt
    simp only [leNat, List.length_cons, leBytes]
    rw [show (b.toNat + 256 * leNat bs) / 256 = leNat bs by omega, ih]
    congr 1
    apply BitVec.eq_of_toNat_eq
    simp only [BitVec.toNat_ofNat]
    omega

/-! ## Fields -/

@[simp] theorem blockA0_blockWord (a0 a1 : Byte) (idx : BitVec 48) : blockA0 (blockWord a0 a1 idx) = a0 := by
  unfold blockA0 blockWord
  ext i hi
  simp only [BitVec.getElem_extractLsb', BitVec.getLsbD_append]
  grind

@[simp] theorem blockA1_blockWord (a0 a1 : Byte) (idx : BitVec 48) : blockA1 (blockWord a0 a1 idx) = a1 := by
  unfold blockA1 blockWord
  ext i hi
  simp only [BitVec.getElem_extractLsb', BitVec.getLsbD_append]
  grind

@[simp] theorem blockIdx_blockWord (a0 a1 : Byte) (idx : BitVec 48) : blockIdx (blockWord a0 a1 idx) = idx := by
  unfold blockIdx blockWord
  ext i hi
  simp only [BitVec.getElem_extractLsb', BitVec.getLsbD_append]
  grind

/-- A block is its three fields (30_encoding.md R94). -/
theorem blockWord_fields (q : DWord) : blockWord (blockA0 q) (blockA1 q) (blockIdx q) = q := by
  unfold blockA0 blockA1 blockIdx blockWord
  ext i hi
  simp only [BitVec.getElem_append, BitVec.getElem_extractLsb']
  grind

theorem accessWord_write (w : Bool) (off : Byte) (data : Word) : (accessWord w off data).getLsbD 40 = w := by
  unfold accessWord
  simp only [BitVec.getLsbD_append]
  cases w <;> simp

theorem accessWord_off (w : Bool) (off : Byte) (data : Word) : (accessWord w off data).extractLsb' 32 8 = off := by
  unfold accessWord
  ext i hi
  simp only [BitVec.getElem_extractLsb', BitVec.getLsbD_append]
  grind

theorem accessWord_data (w : Bool) (off : Byte) (data : Word) : (accessWord w off data).extractLsb' 0 32 = data := by
  unfold accessWord
  ext i hi
  simp only [BitVec.getElem_extractLsb', BitVec.getLsbD_append]
  grind

/-- A register access is its three fields (R101). -/
theorem accessWord_fields (a : BitVec 41) :
    accessWord (a.getLsbD 40) (a.extractLsb' 32 8) (a.extractLsb' 0 32) = a := by
  unfold accessWord
  ext i hi
  simp only [BitVec.getElem_append, BitVec.getElem_extractLsb', BitVec.getElem_ofBool]
  by_cases h : i = 40
  · subst h; simp
  · grind

/-- What a register access decodes to, by its fields. -/
theorem decodeRegacc_accessWord (w : Bool) (off : Byte) (data : Word) :
    decodeRegacc (accessWord w off data) =
      if offAligned off = false then .error .portMisaligned
      else if w then
        if off = offCtrl then
          if data.getLsbD 0 then .ok (.cmdStart data) else .ok (.cmdConfig data)
        else if off = offInputLen then .ok (.cmdSetlen data)
        else .ok (.regWrite off data)
      else if data = 0#32 then .ok (.regRead off)
      else .error .readWithData := by
  simp only [decodeRegacc, accessWord_write, accessWord_off, accessWord_data]

/-! ## Bytes of encoded values -/

theorem sizedValue_leBytes {n width v : Nat} (hn : 2 ^ width ≤ 256 ^ n) (hv : v < 2 ^ width) :
    sizedValue n width (leBytes n v) = .ok v := by
  simp only [sizedValue, leBytes_length, leNat_leBytes, ne_eq, not_true_eq_false, if_false]
  rw [Nat.mod_eq_of_lt (by omega), if_neg (by omega)]

/-- The bytes of an encoded value give it back. -/
theorem ofBytes_toBytes (c : Code) : Code.ofBytes c.format c.toBytes = .ok c := by
  cases c with
  | fourcc w => simp [Code.ofBytes, Code.format, Code.toBytes, sizedValue_leBytes (n := 4) (width := 32) (by decide) w.isLt, Except.map]
  | block q => simp [Code.ofBytes, Code.format, Code.toBytes, sizedValue_leBytes (n := 8) (width := 64) (by decide) q.isLt, Except.map]
  | idx3 m l i => simp [Code.ofBytes, Code.format, Code.toBytes, sizedValue_leBytes (n := 1) (width := 3) (by decide) i.isLt, Except.map]
  | regacc a => simp [Code.ofBytes, Code.format, Code.toBytes, sizedValue_leBytes (n := 6) (width := 41) (by decide) a.isLt, Except.map]
  | seq p k => simp [Code.ofBytes, Code.format, Code.toBytes, sizedValue_leBytes (n := 1) (width := 3) (by decide) p.isLt, Except.map]

end Sys2Proof
end

