-- ==== Sys2Proof/Laws/Memory.lean ====
section
/-! SUPPORT. Laws of the buffers and of the fixed tables: read after write, the canonical form, tabulation. -/

namespace Sys2Proof.Machine

/-! ## Tables -/

@[simp] theorem tab4_get {α : Type} (f : Fin 4 → α) (i : Fin 4) : (tab4 f)[i] = f i := by
  fin_cases i <;> rfl

@[simp] theorem tab8_get {α : Type} (f : Fin 8 → α) (i : Fin 8) : (tab8 f)[i] = f i := by
  fin_cases i <;> rfl

@[simp] theorem tab16_get {α : Type} (f : Fin 16 → α) (i : Fin 16) : (tab16 f)[i] = f i := by
  fin_cases i <;> rfl

@[simp] theorem tab4_getElem {α : Type} (f : Fin 4 → α) (i : Nat) (h : i < 4) : (tab4 f)[i] = f ⟨i, h⟩ :=
  tab4_get f ⟨i, h⟩

@[simp] theorem tab8_getElem {α : Type} (f : Fin 8 → α) (i : Nat) (h : i < 8) : (tab8 f)[i] = f ⟨i, h⟩ :=
  tab8_get f ⟨i, h⟩

@[simp] theorem tab16_getElem {α : Type} (f : Fin 16 → α) (i : Nat) (h : i < 16) : (tab16 f)[i] = f ⟨i, h⟩ :=
  tab16_get f ⟨i, h⟩

/-! ## Reading after writing -/

@[simp] theorem peek_nil (a : Nat) : Memory.peek [] a = none := rfl

@[simp] theorem peek_cons (x : Nat) (b : Byte) (m : Memory) (a : Nat) :
    Memory.peek ((x, b) :: m) a = if x = a then some b else Memory.peek m a := rfl

theorem peek_poke (m : Memory) (a a' : Nat) (v : Byte) :
    (Memory.poke m a v).peek a' = if a = a' then some v else m.peek a' := by
  induction m with
  | nil => simp [Memory.poke]
  | cons c m ih =>
    obtain ⟨x, b⟩ := c
    unfold Memory.poke
    split
    · simp
    · split
      · next h => subst h; by_cases h : x = a' <;> simp [h]
      · next h =>
        by_cases hx : x = a'
        · subst hx; simp [Ne.symm h]
        · simp [hx, ih]

@[simp] theorem peek_poke_same (m : Memory) (a : Nat) (v : Byte) : (Memory.poke m a v).peek a = some v := by
  simp [peek_poke]

theorem peek_poke_other (m : Memory) {a a' : Nat} (v : Byte) (h : a ≠ a') : (Memory.poke m a v).peek a' = m.peek a' := by
  simp [peek_poke, h]

theorem peek_pokeAll_other (cs : List Host.Cell) (m : Memory) (a : Nat) (h : ∀ c ∈ cs, c.1 ≠ a) :
    (Memory.pokeAll m cs).peek a = m.peek a := by
  induction cs generalizing m with
  | nil => rfl
  | cons c cs ih =>
    obtain ⟨x, v⟩ := c
    simp only [Memory.pokeAll]
    rw [ih _ fun c hc => h c (List.mem_cons_of_mem _ hc)]
    exact peek_poke_other _ _ (h (x, v) (List.mem_cons_self ..))

theorem peek_pokeAll_mem (cs : List Host.Cell) (m : Memory) (a : Nat) (v : Byte)
    (hnd : (cs.map Prod.fst).Nodup) (h : (a, v) ∈ cs) : (Memory.pokeAll m cs).peek a = some v := by
  induction cs generalizing m with
  | nil => cases h
  | cons c cs ih =>
    obtain ⟨x, w⟩ := c
    simp only [Memory.pokeAll]
    simp only [List.map_cons, List.nodup_cons] at hnd
    rcases List.mem_cons.1 h with h | h
    · cases h
      rw [peek_pokeAll_other]
      · simp
      · intro c hc he
        exact hnd.1 (by rw [← he]; exact List.mem_map_of_mem hc)
    · exact ih _ hnd.2 h

theorem peek_forget (m : Memory) (bound a : Nat) :
    (Memory.forget m bound).peek a = if a < bound then none else m.peek a := by
  induction m with
  | nil => simp [Memory.forget]
  | cons c m ih =>
    obtain ⟨x, b⟩ := c
    simp only [Memory.forget] at ih ⊢
    rw [List.filter_cons]
    by_cases hx : bound ≤ x
    · simp only [hx, decide_true, if_true, peek_cons, ih]
      by_cases he : x = a
      · subst he; simp [hx]
      · simp [he]
    · simp only [hx, decide_false, peek_cons]
      rw [show (if false = true then (x, b) :: List.filter (fun c => decide (bound ≤ c.1)) m
        else List.filter (fun c => decide (bound ≤ c.1)) m) = List.filter (fun c => decide (bound ≤ c.1)) m from rfl, ih]
      by_cases he : x = a
      · subst he; simp [Nat.lt_of_not_le hx]
      · simp [he]

/-! ## The canonical form -/

/-- Every address of the buffer is at least `lo`, and the form holds. -/
def Memory.wfFrom (lo : Nat) : Memory → Prop
  | [] => True
  | (x, _) :: m => lo ≤ x ∧ Memory.wfFrom (x + 1) m

theorem wfFrom_mono {m : Memory} {lo lo' : Nat} (h : m.wfFrom lo) (hl : lo' ≤ lo) : m.wfFrom lo' := by
  cases m with
  | nil => trivial
  | cons c m => exact ⟨Nat.le_trans hl h.1, h.2⟩

theorem wf_iff_wfFrom (m : Memory) : m.wf = true ↔ m.wfFrom 0 := by
  suffices ∀ m : Memory, (m.wf = true ↔ match m with | [] => True | (x, _) :: m => Memory.wfFrom (x + 1) m) by
    rw [this m]
    cases m <;> simp [Memory.wfFrom]
  intro m
  induction m with
  | nil => simp [Memory.wf]
  | cons c m ih =>
    obtain ⟨x, b⟩ := c
    cases m with
    | nil => simp [Memory.wf, Memory.wfFrom]
    | cons d m =>
      obtain ⟨y, e⟩ := d
      simp only [Memory.wf, Bool.and_eq_true, decide_eq_true_eq, ih, Memory.wfFrom]
      exact Iff.rfl

theorem poke_wfFrom {m : Memory} {lo a : Nat} (v : Byte) (h : m.wfFrom lo) (ha : lo ≤ a) : (m.poke a v).wfFrom lo := by
  induction m generalizing lo with
  | nil => exact ⟨ha, trivial⟩
  | cons c m ih =>
    obtain ⟨x, b⟩ := c
    unfold Memory.poke
    split
    · next hx => exact ⟨ha, hx, h.2⟩
    · split
      · next hx => subst hx; exact ⟨ha, h.2⟩
      · next h1 h2 => exact ⟨h.1, ih h.2 (by omega)⟩

/-- A byte write keeps the canonical form. -/
theorem poke_wf {m : Memory} (a : Nat) (v : Byte) (h : m.wf = true) : (m.poke a v).wf = true := by
  rw [wf_iff_wfFrom] at *
  exact poke_wfFrom v h (Nat.zero_le _)

/-- Writing several bytes keeps the canonical form. -/
theorem pokeAll_wf (cs : List Host.Cell) {m : Memory} (h : m.wf = true) : (m.pokeAll cs).wf = true := by
  induction cs generalizing m with
  | nil => exact h
  | cons c cs ih => exact ih (poke_wf _ _ h)

theorem forget_wfFrom {m : Memory} {lo : Nat} (bound : Nat) (h : m.wfFrom lo) : (m.forget bound).wfFrom lo := by
  induction m generalizing lo with
  | nil => trivial
  | cons c m ih =>
    obtain ⟨x, b⟩ := c
    have hm := ih h.2
    simp only [Memory.forget, List.filter_cons] at *
    split
    · exact ⟨h.1, hm⟩
    · exact wfFrom_mono hm (by have := h.1; omega)

/-- Losing contents keeps the canonical form. -/
theorem forget_wf {m : Memory} (bound : Nat) (h : m.wf = true) : (m.forget bound).wf = true := by
  rw [wf_iff_wfFrom] at *
  exact forget_wfFrom bound h

/-- Two canonical buffers with the same definite bytes are the same data. -/
theorem wfFrom_peek_lt {m : Memory} {lo a : Nat} (h : m.wfFrom lo) (ha : a < lo) : m.peek a = none := by
  induction m generalizing lo with
  | nil => rfl
  | cons c m ih =>
    obtain ⟨x, b⟩ := c
    have h1 := h.1
    rw [peek_cons, if_neg (by omega), ih h.2 (by omega)]

/-- Equal contents are equal data: the canonical form is unique. -/
theorem eq_of_peek_eq {m n : Memory} (hm : m.wf = true) (hn : n.wf = true) (h : ∀ a, m.peek a = n.peek a) : m = n := by
  rw [wf_iff_wfFrom] at hm hn
  suffices ∀ (m n : Memory) (lo : Nat), m.wfFrom lo → n.wfFrom lo → (∀ a, m.peek a = n.peek a) → m = n from
    this m n 0 hm hn h
  intro m
  induction m with
  | nil =>
    intro n lo _ hn h
    cases n with
    | nil => rfl
    | cons d n => obtain ⟨y, e⟩ := d; have := h y; simp at this
  | cons c m ih =>
    obtain ⟨x, b⟩ := c
    intro n lo hm hn h
    cases n with
    | nil => have := h x; simp at this
    | cons d n =>
      obtain ⟨y, e⟩ := d
      have hxy : x = y := by
        rcases Nat.lt_trichotomy x y with hlt | heq | hgt
        · have := h x
          rw [peek_cons, if_pos rfl, peek_cons, if_neg (by omega), wfFrom_peek_lt hn.2 (by omega)] at this
          cases this
        · exact heq
        · have := h y
          rw [peek_cons, if_neg (by omega), wfFrom_peek_lt hm.2 (by omega), peek_cons, if_pos rfl] at this
          cases this
      subst hxy
      have hb : b = e := by have := h x; simpa using this
      subst hb
      congr 1
      refine ih n (x + 1) hm.2 hn.2 fun a => ?_
      by_cases ha : x = a
      · subst ha
        rw [wfFrom_peek_lt hm.2 (by omega), wfFrom_peek_lt hn.2 (by omega)]
      · have := h a
        rwa [peek_cons, if_neg ha, peek_cons, if_neg ha] at this

/-! ## Which addresses a buffer lists -/

/-- Every listed address is below `cap`. -/
def Memory.below (cap : Nat) (m : Memory) : Prop := ∀ a, cap ≤ a → m.peek a = none

theorem below_nil (cap : Nat) : Memory.below cap [] := fun _ _ => rfl

theorem below_poke {cap : Nat} {m : Memory} {a : Nat} (v : Byte) (h : m.below cap) (ha : a < cap) :
    (m.poke a v).below cap := by
  intro x hx
  rw [peek_poke_other _ _ (by omega)]
  exact h x hx

theorem below_pokeAll {cap : Nat} (cs : List Host.Cell) {m : Memory} (h : m.below cap) (hc : ∀ c ∈ cs, c.1 < cap) :
    (m.pokeAll cs).below cap := by
  intro x hx
  rw [peek_pokeAll_other _ _ _ fun c hc' => by have := hc c hc'; omega]
  exact h x hx

theorem below_forget {cap : Nat} {m : Memory} (bound : Nat) (h : m.below cap) : (m.forget bound).below cap := by
  intro x hx
  rw [peek_forget]
  split
  · rfl
  · exact h x hx

theorem mem_cellsFrom {a : Nat} {bs : List Byte} {c : Host.Cell} (h : c ∈ cellsFrom a bs) :
    a ≤ c.1 ∧ c.1 < a + bs.length := by
  induction bs generalizing a with
  | nil => cases h
  | cons b bs ih =>
    rcases List.mem_cons.1 h with h | h
    · subst h; simp
    · have := ih h; simp only [List.length_cons]; omega

end Sys2Proof.Machine
end

