-- ==== Sys2Proof/Laws/State.lean ====
section
/-! SUPPORT. What each named update of the state leaves and writes, field by field (all true by rfl). -/

namespace Sys2Proof.Machine

/-! ## `setSeq` -/

@[simp] theorem setSeq_inCapacity (s : State) (p : Phase) : (s.setSeq p).inCapacity = s.inCapacity := rfl
@[simp] theorem setSeq_outCapacity (s : State) (p : Phase) : (s.setSeq p).outCapacity = s.outCapacity := rfl
@[simp] theorem setSeq_ctrlStrict (s : State) (p : Phase) : (s.setSeq p).ctrlStrict = s.ctrlStrict := rfl
@[simp] theorem setSeq_ctrlTileOrder (s : State) (p : Phase) : (s.setSeq p).ctrlTileOrder = s.ctrlTileOrder := rfl
@[simp] theorem setSeq_ctrlIe (s : State) (p : Phase) : (s.setSeq p).ctrlIe = s.ctrlIe := rfl
@[simp] theorem setSeq_errorCode (s : State) (p : Phase) : (s.setSeq p).errorCode = s.errorCode := rfl
@[simp] theorem setSeq_errorInfo (s : State) (p : Phase) : (s.setSeq p).errorInfo = s.errorInfo := rfl
@[simp] theorem setSeq_inputLen (s : State) (p : Phase) : (s.setSeq p).inputLen = s.inputLen := rfl
@[simp] theorem setSeq_hdrMagic (s : State) (p : Phase) : (s.setSeq p).hdrMagic = s.hdrMagic := rfl
@[simp] theorem setSeq_hdrSize (s : State) (p : Phase) : (s.setSeq p).hdrSize = s.hdrSize := rfl
@[simp] theorem setSeq_hdrHeight (s : State) (p : Phase) : (s.setSeq p).hdrHeight = s.hdrHeight := rfl
@[simp] theorem setSeq_hdrWidth (s : State) (p : Phase) : (s.setSeq p).hdrWidth = s.hdrWidth := rfl
@[simp] theorem setSeq_hdrFourcc (s : State) (p : Phase) : (s.setSeq p).hdrFourcc = s.hdrFourcc := rfl
@[simp] theorem setSeq_hdrDx10 (s : State) (p : Phase) : (s.setSeq p).hdrDx10 = s.hdrDx10 := rfl
@[simp] theorem setSeq_dataOffset (s : State) (p : Phase) : (s.setSeq p).dataOffset = s.dataOffset := rfl
@[simp] theorem setSeq_blockCount (s : State) (p : Phase) : (s.setSeq p).blockCount = s.blockCount := rfl
@[simp] theorem setSeq_blockIndex (s : State) (p : Phase) : (s.setSeq p).blockIndex = s.blockIndex := rfl
@[simp] theorem setSeq_seq (s : State) (p : Phase) : (s.setSeq p).seq = p := rfl
@[simp] theorem setSeq_opStrict (s : State) (p : Phase) : (s.setSeq p).opStrict = s.opStrict := rfl
@[simp] theorem setSeq_opOrder (s : State) (p : Phase) : (s.setSeq p).opOrder = s.opOrder := rfl
@[simp] theorem setSeq_opLen (s : State) (p : Phase) : (s.setSeq p).opLen = s.opLen := rfl
@[simp] theorem setSeq_lane (s : State) (p : Phase) : (s.setSeq p).lane = s.lane := rfl
@[simp] theorem setSeq_otherLanes (s : State) (p : Phase) : (s.setSeq p).otherLanes = s.otherLanes := rfl
@[simp] theorem setSeq_inMem (s : State) (p : Phase) : (s.setSeq p).inMem = s.inMem := rfl
@[simp] theorem setSeq_outMem (s : State) (p : Phase) : (s.setSeq p).outMem = s.outMem := rfl
@[simp] theorem setSeq_portData (s : State) (p : Phase) : (s.setSeq p).portData = s.portData := rfl
@[simp] theorem setSeq_outData (s : State) (p : Phase) : (s.setSeq p).outData = s.outData := rfl
@[simp] theorem setSeq_host (s : State) (p : Phase) : (s.setSeq p).host = s.host := rfl
@[simp] theorem setSeq_issue (s : State) (p : Phase) : (s.setSeq p).issue = s.issue := rfl
@[simp] theorem setSeq_acked (s : State) (p : Phase) : (s.setSeq p).acked = s.acked := rfl
@[simp] theorem setSeq_progress (s : State) (p : Phase) : (s.setSeq p).progress = s.progress := rfl
@[simp] theorem setSeq_spoil (s : State) (p : Phase) : (s.setSeq p).spoil = s.spoil := rfl
@[simp] theorem setSeq_draws (s : State) (p : Phase) : (s.setSeq p).draws = s.draws := rfl
@[simp] theorem setSeq_resets (s : State) (p : Phase) : (s.setSeq p).resets = s.resets := rfl
@[simp] theorem setSeq_outScrambles (s : State) (p : Phase) : (s.setSeq p).outScrambles = s.outScrambles := rfl

/-! ## `loseLatches` -/

@[simp] theorem loseLatches_inCapacity (s : State) : (s.loseLatches).inCapacity = s.inCapacity := rfl
@[simp] theorem loseLatches_outCapacity (s : State) : (s.loseLatches).outCapacity = s.outCapacity := rfl
@[simp] theorem loseLatches_ctrlStrict (s : State) : (s.loseLatches).ctrlStrict = s.ctrlStrict := rfl
@[simp] theorem loseLatches_ctrlTileOrder (s : State) : (s.loseLatches).ctrlTileOrder = s.ctrlTileOrder := rfl
@[simp] theorem loseLatches_ctrlIe (s : State) : (s.loseLatches).ctrlIe = s.ctrlIe := rfl
@[simp] theorem loseLatches_errorCode (s : State) : (s.loseLatches).errorCode = s.errorCode := rfl
@[simp] theorem loseLatches_errorInfo (s : State) : (s.loseLatches).errorInfo = s.errorInfo := rfl
@[simp] theorem loseLatches_inputLen (s : State) : (s.loseLatches).inputLen = s.inputLen := rfl
@[simp] theorem loseLatches_hdrMagic (s : State) : (s.loseLatches).hdrMagic = s.hdrMagic := rfl
@[simp] theorem loseLatches_hdrSize (s : State) : (s.loseLatches).hdrSize = s.hdrSize := rfl
@[simp] theorem loseLatches_hdrHeight (s : State) : (s.loseLatches).hdrHeight = s.hdrHeight := rfl
@[simp] theorem loseLatches_hdrWidth (s : State) : (s.loseLatches).hdrWidth = s.hdrWidth := rfl
@[simp] theorem loseLatches_hdrFourcc (s : State) : (s.loseLatches).hdrFourcc = s.hdrFourcc := rfl
@[simp] theorem loseLatches_hdrDx10 (s : State) : (s.loseLatches).hdrDx10 = s.hdrDx10 := rfl
@[simp] theorem loseLatches_dataOffset (s : State) : (s.loseLatches).dataOffset = s.dataOffset := rfl
@[simp] theorem loseLatches_blockCount (s : State) : (s.loseLatches).blockCount = s.blockCount := rfl
@[simp] theorem loseLatches_blockIndex (s : State) : (s.loseLatches).blockIndex = s.blockIndex := rfl
@[simp] theorem loseLatches_seq (s : State) : (s.loseLatches).seq = s.seq := rfl
@[simp] theorem loseLatches_opStrict (s : State) : (s.loseLatches).opStrict = s.opStrict := rfl
@[simp] theorem loseLatches_opOrder (s : State) : (s.loseLatches).opOrder = s.opOrder := rfl
@[simp] theorem loseLatches_opLen (s : State) : (s.loseLatches).opLen = s.opLen := rfl
@[simp] theorem loseLatches_lane (s : State) : (s.loseLatches).lane = Config.freeLatches s.draws 0 := rfl
@[simp] theorem loseLatches_otherLanes (s : State) : (s.loseLatches).otherLanes = freeLanes s.draws s.otherLanes.length := rfl
@[simp] theorem loseLatches_inMem (s : State) : (s.loseLatches).inMem = s.inMem := rfl
@[simp] theorem loseLatches_outMem (s : State) : (s.loseLatches).outMem = s.outMem := rfl
@[simp] theorem loseLatches_portData (s : State) : (s.loseLatches).portData = s.portData := rfl
@[simp] theorem loseLatches_outData (s : State) : (s.loseLatches).outData = s.outData := rfl
@[simp] theorem loseLatches_host (s : State) : (s.loseLatches).host = s.host := rfl
@[simp] theorem loseLatches_issue (s : State) : (s.loseLatches).issue = s.issue := rfl
@[simp] theorem loseLatches_acked (s : State) : (s.loseLatches).acked = s.acked := rfl
@[simp] theorem loseLatches_progress (s : State) : (s.loseLatches).progress = s.progress := rfl
@[simp] theorem loseLatches_spoil (s : State) : (s.loseLatches).spoil = s.spoil := rfl
@[simp] theorem loseLatches_draws (s : State) : (s.loseLatches).draws = s.draws + 1 := rfl
@[simp] theorem loseLatches_resets (s : State) : (s.loseLatches).resets = s.resets := rfl
@[simp] theorem loseLatches_outScrambles (s : State) : (s.loseLatches).outScrambles = s.outScrambles := rfl
@[simp] theorem loseLatches_pixels (s : State) : (s.loseLatches).pixels = s.pixels := rfl
@[simp] theorem loseLatches_inByte (s : State) : (s.loseLatches).inByte = s.inByte := rfl

/-! ## `finish` -/

@[simp] theorem finish_inCapacity (s : State) (p : Phase) : (s.finish p).inCapacity = s.inCapacity := rfl
@[simp] theorem finish_outCapacity (s : State) (p : Phase) : (s.finish p).outCapacity = s.outCapacity := rfl
@[simp] theorem finish_ctrlStrict (s : State) (p : Phase) : (s.finish p).ctrlStrict = s.ctrlStrict := rfl
@[simp] theorem finish_ctrlTileOrder (s : State) (p : Phase) : (s.finish p).ctrlTileOrder = s.ctrlTileOrder := rfl
@[simp] theorem finish_ctrlIe (s : State) (p : Phase) : (s.finish p).ctrlIe = s.ctrlIe := rfl
@[simp] theorem finish_errorCode (s : State) (p : Phase) : (s.finish p).errorCode = s.errorCode := rfl
@[simp] theorem finish_errorInfo (s : State) (p : Phase) : (s.finish p).errorInfo = s.errorInfo := rfl
@[simp] theorem finish_inputLen (s : State) (p : Phase) : (s.finish p).inputLen = s.inputLen := rfl
@[simp] theorem finish_hdrMagic (s : State) (p : Phase) : (s.finish p).hdrMagic = s.hdrMagic := rfl
@[simp] theorem finish_hdrSize (s : State) (p : Phase) : (s.finish p).hdrSize = s.hdrSize := rfl
@[simp] theorem finish_hdrHeight (s : State) (p : Phase) : (s.finish p).hdrHeight = s.hdrHeight := rfl
@[simp] theorem finish_hdrWidth (s : State) (p : Phase) : (s.finish p).hdrWidth = s.hdrWidth := rfl
@[simp] theorem finish_hdrFourcc (s : State) (p : Phase) : (s.finish p).hdrFourcc = s.hdrFourcc := rfl
@[simp] theorem finish_hdrDx10 (s : State) (p : Phase) : (s.finish p).hdrDx10 = s.hdrDx10 := rfl
@[simp] theorem finish_dataOffset (s : State) (p : Phase) : (s.finish p).dataOffset = s.dataOffset := rfl
@[simp] theorem finish_blockCount (s : State) (p : Phase) : (s.finish p).blockCount = s.blockCount := rfl
@[simp] theorem finish_blockIndex (s : State) (p : Phase) : (s.finish p).blockIndex = s.blockIndex := rfl
@[simp] theorem finish_seq (s : State) (p : Phase) : (s.finish p).seq = p := rfl
@[simp] theorem finish_opStrict (s : State) (p : Phase) : (s.finish p).opStrict = s.opStrict := rfl
@[simp] theorem finish_opOrder (s : State) (p : Phase) : (s.finish p).opOrder = s.opOrder := rfl
@[simp] theorem finish_opLen (s : State) (p : Phase) : (s.finish p).opLen = s.opLen := rfl
@[simp] theorem finish_lane (s : State) (p : Phase) : (s.finish p).lane = Config.freeLatches s.draws 0 := rfl
@[simp] theorem finish_otherLanes (s : State) (p : Phase) : (s.finish p).otherLanes = freeLanes s.draws s.otherLanes.length := rfl
@[simp] theorem finish_inMem (s : State) (p : Phase) : (s.finish p).inMem = s.inMem := rfl
@[simp] theorem finish_outMem (s : State) (p : Phase) : (s.finish p).outMem = s.outMem := rfl
@[simp] theorem finish_portData (s : State) (p : Phase) : (s.finish p).portData = s.portData := rfl
@[simp] theorem finish_outData (s : State) (p : Phase) : (s.finish p).outData = s.outData := rfl
@[simp] theorem finish_host (s : State) (p : Phase) : (s.finish p).host = s.host := rfl
@[simp] theorem finish_issue (s : State) (p : Phase) : (s.finish p).issue = s.issue := rfl
@[simp] theorem finish_acked (s : State) (p : Phase) : (s.finish p).acked = s.acked := rfl
@[simp] theorem finish_progress (s : State) (p : Phase) : (s.finish p).progress = s.progress := rfl
@[simp] theorem finish_spoil (s : State) (p : Phase) : (s.finish p).spoil = s.spoil := rfl
@[simp] theorem finish_draws (s : State) (p : Phase) : (s.finish p).draws = s.draws + 1 := rfl
@[simp] theorem finish_resets (s : State) (p : Phase) : (s.finish p).resets = s.resets := rfl
@[simp] theorem finish_outScrambles (s : State) (p : Phase) : (s.finish p).outScrambles = s.outScrambles := rfl
@[simp] theorem finish_pixels (s : State) (p : Phase) : (s.finish p).pixels = s.pixels := rfl
@[simp] theorem finish_inByte (s : State) (p : Phase) : (s.finish p).inByte = s.inByte := rfl

/-! ## `scrambleOut` -/

@[simp] theorem scrambleOut_inCapacity (s : State) (n : Nat) : (s.scrambleOut n).inCapacity = s.inCapacity := rfl
@[simp] theorem scrambleOut_outCapacity (s : State) (n : Nat) : (s.scrambleOut n).outCapacity = s.outCapacity := rfl
@[simp] theorem scrambleOut_ctrlStrict (s : State) (n : Nat) : (s.scrambleOut n).ctrlStrict = s.ctrlStrict := rfl
@[simp] theorem scrambleOut_ctrlTileOrder (s : State) (n : Nat) : (s.scrambleOut n).ctrlTileOrder = s.ctrlTileOrder := rfl
@[simp] theorem scrambleOut_ctrlIe (s : State) (n : Nat) : (s.scrambleOut n).ctrlIe = s.ctrlIe := rfl
@[simp] theorem scrambleOut_errorCode (s : State) (n : Nat) : (s.scrambleOut n).errorCode = s.errorCode := rfl
@[simp] theorem scrambleOut_errorInfo (s : State) (n : Nat) : (s.scrambleOut n).errorInfo = s.errorInfo := rfl
@[simp] theorem scrambleOut_inputLen (s : State) (n : Nat) : (s.scrambleOut n).inputLen = s.inputLen := rfl
@[simp] theorem scrambleOut_hdrMagic (s : State) (n : Nat) : (s.scrambleOut n).hdrMagic = s.hdrMagic := rfl
@[simp] theorem scrambleOut_hdrSize (s : State) (n : Nat) : (s.scrambleOut n).hdrSize = s.hdrSize := rfl
@[simp] theorem scrambleOut_hdrHeight (s : State) (n : Nat) : (s.scrambleOut n).hdrHeight = s.hdrHeight := rfl
@[simp] theorem scrambleOut_hdrWidth (s : State) (n : Nat) : (s.scrambleOut n).hdrWidth = s.hdrWidth := rfl
@[simp] theorem scrambleOut_hdrFourcc (s : State) (n : Nat) : (s.scrambleOut n).hdrFourcc = s.hdrFourcc := rfl
@[simp] theorem scrambleOut_hdrDx10 (s : State) (n : Nat) : (s.scrambleOut n).hdrDx10 = s.hdrDx10 := rfl
@[simp] theorem scrambleOut_dataOffset (s : State) (n : Nat) : (s.scrambleOut n).dataOffset = s.dataOffset := rfl
@[simp] theorem scrambleOut_blockCount (s : State) (n : Nat) : (s.scrambleOut n).blockCount = s.blockCount := rfl
@[simp] theorem scrambleOut_blockIndex (s : State) (n : Nat) : (s.scrambleOut n).blockIndex = s.blockIndex := rfl
@[simp] theorem scrambleOut_seq (s : State) (n : Nat) : (s.scrambleOut n).seq = s.seq := rfl
@[simp] theorem scrambleOut_opStrict (s : State) (n : Nat) : (s.scrambleOut n).opStrict = s.opStrict := rfl
@[simp] theorem scrambleOut_opOrder (s : State) (n : Nat) : (s.scrambleOut n).opOrder = s.opOrder := rfl
@[simp] theorem scrambleOut_opLen (s : State) (n : Nat) : (s.scrambleOut n).opLen = s.opLen := rfl
@[simp] theorem scrambleOut_lane (s : State) (n : Nat) : (s.scrambleOut n).lane = s.lane := rfl
@[simp] theorem scrambleOut_otherLanes (s : State) (n : Nat) : (s.scrambleOut n).otherLanes = s.otherLanes := rfl
@[simp] theorem scrambleOut_inMem (s : State) (n : Nat) : (s.scrambleOut n).inMem = s.inMem := rfl
@[simp] theorem scrambleOut_outMem (s : State) (n : Nat) : (s.scrambleOut n).outMem = s.outMem.forget n := rfl
@[simp] theorem scrambleOut_portData (s : State) (n : Nat) : (s.scrambleOut n).portData = s.portData := rfl
@[simp] theorem scrambleOut_outData (s : State) (n : Nat) : (s.scrambleOut n).outData = s.outData := rfl
@[simp] theorem scrambleOut_host (s : State) (n : Nat) : (s.scrambleOut n).host = s.host := rfl
@[simp] theorem scrambleOut_issue (s : State) (n : Nat) : (s.scrambleOut n).issue = s.issue := rfl
@[simp] theorem scrambleOut_acked (s : State) (n : Nat) : (s.scrambleOut n).acked = s.acked := rfl
@[simp] theorem scrambleOut_progress (s : State) (n : Nat) : (s.scrambleOut n).progress = s.progress := rfl
@[simp] theorem scrambleOut_spoil (s : State) (n : Nat) : (s.scrambleOut n).spoil = s.spoil := rfl
@[simp] theorem scrambleOut_draws (s : State) (n : Nat) : (s.scrambleOut n).draws = s.draws := rfl
@[simp] theorem scrambleOut_resets (s : State) (n : Nat) : (s.scrambleOut n).resets = s.resets := rfl
@[simp] theorem scrambleOut_outScrambles (s : State) (n : Nat) : (s.scrambleOut n).outScrambles = n :: s.outScrambles := rfl

/-! ## `raise` -/

@[simp] theorem raise_inCapacity (s : State) (e : ErrorKind) (info : Word) : (s.raise e info).inCapacity = s.inCapacity := rfl
@[simp] theorem raise_outCapacity (s : State) (e : ErrorKind) (info : Word) : (s.raise e info).outCapacity = s.outCapacity := rfl
@[simp] theorem raise_ctrlStrict (s : State) (e : ErrorKind) (info : Word) : (s.raise e info).ctrlStrict = s.ctrlStrict := rfl
@[simp] theorem raise_ctrlTileOrder (s : State) (e : ErrorKind) (info : Word) : (s.raise e info).ctrlTileOrder = s.ctrlTileOrder := rfl
@[simp] theorem raise_ctrlIe (s : State) (e : ErrorKind) (info : Word) : (s.raise e info).ctrlIe = s.ctrlIe := rfl
@[simp] theorem raise_errorCode (s : State) (e : ErrorKind) (info : Word) : (s.raise e info).errorCode = e.code := rfl
@[simp] theorem raise_errorInfo (s : State) (e : ErrorKind) (info : Word) : (s.raise e info).errorInfo = info := rfl
@[simp] theorem raise_inputLen (s : State) (e : ErrorKind) (info : Word) : (s.raise e info).inputLen = s.inputLen := rfl
@[simp] theorem raise_hdrMagic (s : State) (e : ErrorKind) (info : Word) : (s.raise e info).hdrMagic = s.hdrMagic := rfl
@[simp] theorem raise_hdrSize (s : State) (e : ErrorKind) (info : Word) : (s.raise e info).hdrSize = s.hdrSize := rfl
@[simp] theorem raise_hdrHeight (s : State) (e : ErrorKind) (info : Word) : (s.raise e info).hdrHeight = s.hdrHeight := rfl
@[simp] theorem raise_hdrWidth (s : State) (e : ErrorKind) (info : Word) : (s.raise e info).hdrWidth = s.hdrWidth := rfl
@[simp] theorem raise_hdrFourcc (s : State) (e : ErrorKind) (info : Word) : (s.raise e info).hdrFourcc = s.hdrFourcc := rfl
@[simp] theorem raise_hdrDx10 (s : State) (e : ErrorKind) (info : Word) : (s.raise e info).hdrDx10 = s.hdrDx10 := rfl
@[simp] theorem raise_dataOffset (s : State) (e : ErrorKind) (info : Word) : (s.raise e info).dataOffset = s.dataOffset := rfl
@[simp] theorem raise_blockCount (s : State) (e : ErrorKind) (info : Word) : (s.raise e info).blockCount = s.blockCount := rfl
@[simp] theorem raise_blockIndex (s : State) (e : ErrorKind) (info : Word) : (s.raise e info).blockIndex = s.blockIndex := rfl
@[simp] theorem raise_seq (s : State) (e : ErrorKind) (info : Word) : (s.raise e info).seq = .error := rfl
@[simp] theorem raise_opStrict (s : State) (e : ErrorKind) (info : Word) : (s.raise e info).opStrict = s.opStrict := rfl
@[simp] theorem raise_opOrder (s : State) (e : ErrorKind) (info : Word) : (s.raise e info).opOrder = s.opOrder := rfl
@[simp] theorem raise_opLen (s : State) (e : ErrorKind) (info : Word) : (s.raise e info).opLen = s.opLen := rfl
@[simp] theorem raise_inMem (s : State) (e : ErrorKind) (info : Word) : (s.raise e info).inMem = s.inMem := rfl
@[simp] theorem raise_outMem (s : State) (e : ErrorKind) (info : Word) : (s.raise e info).outMem = s.outMem.forget s.pixels := rfl
@[simp] theorem raise_portData (s : State) (e : ErrorKind) (info : Word) : (s.raise e info).portData = s.portData := rfl
@[simp] theorem raise_outData (s : State) (e : ErrorKind) (info : Word) : (s.raise e info).outData = s.outData := rfl
@[simp] theorem raise_host (s : State) (e : ErrorKind) (info : Word) : (s.raise e info).host = s.host := rfl
@[simp] theorem raise_issue (s : State) (e : ErrorKind) (info : Word) : (s.raise e info).issue = s.issue := rfl
@[simp] theorem raise_acked (s : State) (e : ErrorKind) (info : Word) : (s.raise e info).acked = s.acked := rfl
@[simp] theorem raise_progress (s : State) (e : ErrorKind) (info : Word) : (s.raise e info).progress = s.progress := rfl
@[simp] theorem raise_spoil (s : State) (e : ErrorKind) (info : Word) : (s.raise e info).spoil = s.spoil := rfl
@[simp] theorem raise_draws (s : State) (e : ErrorKind) (info : Word) : (s.raise e info).draws = s.draws + 1 := rfl
@[simp] theorem raise_resets (s : State) (e : ErrorKind) (info : Word) : (s.raise e info).resets = s.resets := rfl
@[simp] theorem raise_outScrambles (s : State) (e : ErrorKind) (info : Word) : (s.raise e info).outScrambles = s.pixels :: s.outScrambles := rfl

/-! ## `drew` -/

@[simp] theorem drew_inCapacity (s : State) : (s.drew).inCapacity = s.inCapacity := rfl
@[simp] theorem drew_outCapacity (s : State) : (s.drew).outCapacity = s.outCapacity := rfl
@[simp] theorem drew_ctrlStrict (s : State) : (s.drew).ctrlStrict = s.ctrlStrict := rfl
@[simp] theorem drew_ctrlTileOrder (s : State) : (s.drew).ctrlTileOrder = s.ctrlTileOrder := rfl
@[simp] theorem drew_ctrlIe (s : State) : (s.drew).ctrlIe = s.ctrlIe := rfl
@[simp] theorem drew_errorCode (s : State) : (s.drew).errorCode = s.errorCode := rfl
@[simp] theorem drew_errorInfo (s : State) : (s.drew).errorInfo = s.errorInfo := rfl
@[simp] theorem drew_inputLen (s : State) : (s.drew).inputLen = s.inputLen := rfl
@[simp] theorem drew_hdrMagic (s : State) : (s.drew).hdrMagic = s.hdrMagic := rfl
@[simp] theorem drew_hdrSize (s : State) : (s.drew).hdrSize = s.hdrSize := rfl
@[simp] theorem drew_hdrHeight (s : State) : (s.drew).hdrHeight = s.hdrHeight := rfl
@[simp] theorem drew_hdrWidth (s : State) : (s.drew).hdrWidth = s.hdrWidth := rfl
@[simp] theorem drew_hdrFourcc (s : State) : (s.drew).hdrFourcc = s.hdrFourcc := rfl
@[simp] theorem drew_hdrDx10 (s : State) : (s.drew).hdrDx10 = s.hdrDx10 := rfl
@[simp] theorem drew_dataOffset (s : State) : (s.drew).dataOffset = s.dataOffset := rfl
@[simp] theorem drew_blockCount (s : State) : (s.drew).blockCount = s.blockCount := rfl
@[simp] theorem drew_blockIndex (s : State) : (s.drew).blockIndex = s.blockIndex := rfl
@[simp] theorem drew_seq (s : State) : (s.drew).seq = s.seq := rfl
@[simp] theorem drew_opStrict (s : State) : (s.drew).opStrict = s.opStrict := rfl
@[simp] theorem drew_opOrder (s : State) : (s.drew).opOrder = s.opOrder := rfl
@[simp] theorem drew_opLen (s : State) : (s.drew).opLen = s.opLen := rfl
@[simp] theorem drew_lane (s : State) : (s.drew).lane = s.lane := rfl
@[simp] theorem drew_otherLanes (s : State) : (s.drew).otherLanes = s.otherLanes := rfl
@[simp] theorem drew_inMem (s : State) : (s.drew).inMem = s.inMem := rfl
@[simp] theorem drew_outMem (s : State) : (s.drew).outMem = s.outMem := rfl
@[simp] theorem drew_portData (s : State) : (s.drew).portData = s.portData := rfl
@[simp] theorem drew_outData (s : State) : (s.drew).outData = s.outData := rfl
@[simp] theorem drew_host (s : State) : (s.drew).host = s.host := rfl
@[simp] theorem drew_issue (s : State) : (s.drew).issue = s.issue := rfl
@[simp] theorem drew_acked (s : State) : (s.drew).acked = s.acked := rfl
@[simp] theorem drew_progress (s : State) : (s.drew).progress = s.progress := rfl
@[simp] theorem drew_spoil (s : State) : (s.drew).spoil = s.spoil := rfl
@[simp] theorem drew_draws (s : State) : (s.drew).draws = s.draws + 1 := rfl
@[simp] theorem drew_resets (s : State) : (s.drew).resets = s.resets := rfl
@[simp] theorem drew_outScrambles (s : State) : (s.drew).outScrambles = s.outScrambles := rfl

/-! ## `spoilResults` -/

@[simp] theorem spoilResults_inCapacity (s : State) : (s.spoilResults).inCapacity = s.inCapacity := by
  dsimp only [State.spoilResults, scrambleOut_inCapacity]
@[simp] theorem spoilResults_outCapacity (s : State) : (s.spoilResults).outCapacity = s.outCapacity := by
  dsimp only [State.spoilResults, scrambleOut_outCapacity]
@[simp] theorem spoilResults_ctrlStrict (s : State) : (s.spoilResults).ctrlStrict = s.ctrlStrict := by
  dsimp only [State.spoilResults, scrambleOut_ctrlStrict]
@[simp] theorem spoilResults_ctrlTileOrder (s : State) : (s.spoilResults).ctrlTileOrder = s.ctrlTileOrder := by
  dsimp only [State.spoilResults, scrambleOut_ctrlTileOrder]
@[simp] theorem spoilResults_ctrlIe (s : State) : (s.spoilResults).ctrlIe = s.ctrlIe := by
  dsimp only [State.spoilResults, scrambleOut_ctrlIe]
@[simp] theorem spoilResults_inputLen (s : State) : (s.spoilResults).inputLen = s.inputLen := by
  dsimp only [State.spoilResults, scrambleOut_inputLen]
@[simp] theorem spoilResults_seq (s : State) : (s.spoilResults).seq = s.seq := by
  dsimp only [State.spoilResults, scrambleOut_seq]
@[simp] theorem spoilResults_opStrict (s : State) : (s.spoilResults).opStrict = s.opStrict := by
  dsimp only [State.spoilResults, scrambleOut_opStrict]
@[simp] theorem spoilResults_opOrder (s : State) : (s.spoilResults).opOrder = s.opOrder := by
  dsimp only [State.spoilResults, scrambleOut_opOrder]
@[simp] theorem spoilResults_opLen (s : State) : (s.spoilResults).opLen = s.opLen := by
  dsimp only [State.spoilResults, scrambleOut_opLen]
@[simp] theorem spoilResults_lane (s : State) : (s.spoilResults).lane = s.lane := by
  dsimp only [State.spoilResults, scrambleOut_lane]
@[simp] theorem spoilResults_otherLanes (s : State) : (s.spoilResults).otherLanes = s.otherLanes := by
  dsimp only [State.spoilResults, scrambleOut_otherLanes]
@[simp] theorem spoilResults_inMem (s : State) : (s.spoilResults).inMem = s.inMem := by
  dsimp only [State.spoilResults, scrambleOut_inMem]
@[simp] theorem spoilResults_portData (s : State) : (s.spoilResults).portData = s.portData := by
  dsimp only [State.spoilResults, scrambleOut_portData]
@[simp] theorem spoilResults_outData (s : State) : (s.spoilResults).outData = s.outData := by
  dsimp only [State.spoilResults, scrambleOut_outData]
@[simp] theorem spoilResults_host (s : State) : (s.spoilResults).host = s.host := by
  dsimp only [State.spoilResults, scrambleOut_host]
@[simp] theorem spoilResults_issue (s : State) : (s.spoilResults).issue = s.issue := by
  dsimp only [State.spoilResults, scrambleOut_issue]
@[simp] theorem spoilResults_acked (s : State) : (s.spoilResults).acked = s.acked := by
  dsimp only [State.spoilResults, scrambleOut_acked]
@[simp] theorem spoilResults_progress (s : State) : (s.spoilResults).progress = s.progress := by
  dsimp only [State.spoilResults, scrambleOut_progress]
@[simp] theorem spoilResults_resets (s : State) : (s.spoilResults).resets = s.resets := by
  dsimp only [State.spoilResults, scrambleOut_resets]
@[simp] theorem spoilResults_outMem (s : State) : (s.spoilResults).outMem = s.outMem.forget s.outCapacity := by
  dsimp only [State.spoilResults, State.scrambleOut]
@[simp] theorem spoilResults_outScrambles (s : State) : (s.spoilResults).outScrambles = s.outCapacity :: s.outScrambles := by
  dsimp only [State.spoilResults, State.scrambleOut]
@[simp] theorem spoilResults_spoil (s : State) : (s.spoilResults).spoil = .ended := by dsimp only [State.spoilResults]
@[simp] theorem spoilResults_draws (s : State) : (s.spoilResults).draws = s.draws + 11 := by dsimp only [State.spoilResults]

/-! ## `configure` -/

@[simp] theorem configure_inCapacity (s : State) (wd : Word) : (s.configure wd).inCapacity = s.inCapacity := rfl
@[simp] theorem configure_outCapacity (s : State) (wd : Word) : (s.configure wd).outCapacity = s.outCapacity := rfl
@[simp] theorem configure_ctrlStrict (s : State) (wd : Word) : (s.configure wd).ctrlStrict = wd.getLsbD 1 := rfl
@[simp] theorem configure_ctrlTileOrder (s : State) (wd : Word) : (s.configure wd).ctrlTileOrder = tileOrderOf (wd.getLsbD 2) := rfl
@[simp] theorem configure_ctrlIe (s : State) (wd : Word) : (s.configure wd).ctrlIe = wd.getLsbD 3 := rfl
@[simp] theorem configure_errorCode (s : State) (wd : Word) : (s.configure wd).errorCode = s.errorCode := rfl
@[simp] theorem configure_errorInfo (s : State) (wd : Word) : (s.configure wd).errorInfo = s.errorInfo := rfl
@[simp] theorem configure_inputLen (s : State) (wd : Word) : (s.configure wd).inputLen = s.inputLen := rfl
@[simp] theorem configure_hdrMagic (s : State) (wd : Word) : (s.configure wd).hdrMagic = s.hdrMagic := rfl
@[simp] theorem configure_hdrSize (s : State) (wd : Word) : (s.configure wd).hdrSize = s.hdrSize := rfl
@[simp] theorem configure_hdrHeight (s : State) (wd : Word) : (s.configure wd).hdrHeight = s.hdrHeight := rfl
@[simp] theorem configure_hdrWidth (s : State) (wd : Word) : (s.configure wd).hdrWidth = s.hdrWidth := rfl
@[simp] theorem configure_hdrFourcc (s : State) (wd : Word) : (s.configure wd).hdrFourcc = s.hdrFourcc := rfl
@[simp] theorem configure_hdrDx10 (s : State) (wd : Word) : (s.configure wd).hdrDx10 = s.hdrDx10 := rfl
@[simp] theorem configure_dataOffset (s : State) (wd : Word) : (s.configure wd).dataOffset = s.dataOffset := rfl
@[simp] theorem configure_blockCount (s : State) (wd : Word) : (s.configure wd).blockCount = s.blockCount := rfl
@[simp] theorem configure_blockIndex (s : State) (wd : Word) : (s.configure wd).blockIndex = s.blockIndex := rfl
@[simp] theorem configure_seq (s : State) (wd : Word) : (s.configure wd).seq = s.seq := rfl
@[simp] theorem configure_opStrict (s : State) (wd : Word) : (s.configure wd).opStrict = s.opStrict := rfl
@[simp] theorem configure_opOrder (s : State) (wd : Word) : (s.configure wd).opOrder = s.opOrder := rfl
@[simp] theorem configure_opLen (s : State) (wd : Word) : (s.configure wd).opLen = s.opLen := rfl
@[simp] theorem configure_lane (s : State) (wd : Word) : (s.configure wd).lane = s.lane := rfl
@[simp] theorem configure_otherLanes (s : State) (wd : Word) : (s.configure wd).otherLanes = s.otherLanes := rfl
@[simp] theorem configure_inMem (s : State) (wd : Word) : (s.configure wd).inMem = s.inMem := rfl
@[simp] theorem configure_outMem (s : State) (wd : Word) : (s.configure wd).outMem = s.outMem := rfl
@[simp] theorem configure_portData (s : State) (wd : Word) : (s.configure wd).portData = s.portData := rfl
@[simp] theorem configure_outData (s : State) (wd : Word) : (s.configure wd).outData = s.outData := rfl
@[simp] theorem configure_host (s : State) (wd : Word) : (s.configure wd).host = s.host := rfl
@[simp] theorem configure_issue (s : State) (wd : Word) : (s.configure wd).issue = s.issue := rfl
@[simp] theorem configure_acked (s : State) (wd : Word) : (s.configure wd).acked = s.acked := rfl
@[simp] theorem configure_progress (s : State) (wd : Word) : (s.configure wd).progress = s.progress := rfl
@[simp] theorem configure_spoil (s : State) (wd : Word) : (s.configure wd).spoil = s.spoil := rfl
@[simp] theorem configure_draws (s : State) (wd : Word) : (s.configure wd).draws = s.draws := rfl
@[simp] theorem configure_resets (s : State) (wd : Word) : (s.configure wd).resets = s.resets := rfl
@[simp] theorem configure_outScrambles (s : State) (wd : Word) : (s.configure wd).outScrambles = s.outScrambles := rfl

/-! ## `start` -/

@[simp] theorem start_inCapacity (s : State) : (s.start).inCapacity = s.inCapacity := rfl
@[simp] theorem start_outCapacity (s : State) : (s.start).outCapacity = s.outCapacity := rfl
@[simp] theorem start_ctrlStrict (s : State) : (s.start).ctrlStrict = s.ctrlStrict := rfl
@[simp] theorem start_ctrlTileOrder (s : State) : (s.start).ctrlTileOrder = s.ctrlTileOrder := rfl
@[simp] theorem start_ctrlIe (s : State) : (s.start).ctrlIe = s.ctrlIe := rfl
@[simp] theorem start_errorCode (s : State) : (s.start).errorCode = 0#4 := rfl
@[simp] theorem start_errorInfo (s : State) : (s.start).errorInfo = 0#32 := rfl
@[simp] theorem start_inputLen (s : State) : (s.start).inputLen = s.inputLen := rfl
@[simp] theorem start_hdrMagic (s : State) : (s.start).hdrMagic = 0#32 := rfl
@[simp] theorem start_hdrSize (s : State) : (s.start).hdrSize = 0#32 := rfl
@[simp] theorem start_hdrHeight (s : State) : (s.start).hdrHeight = 0#32 := rfl
@[simp] theorem start_hdrWidth (s : State) : (s.start).hdrWidth = 0#32 := rfl
@[simp] theorem start_hdrFourcc (s : State) : (s.start).hdrFourcc = 0#32 := rfl
@[simp] theorem start_hdrDx10 (s : State) : (s.start).hdrDx10 = false := rfl
@[simp] theorem start_dataOffset (s : State) : (s.start).dataOffset = 0#32 := rfl
@[simp] theorem start_blockCount (s : State) : (s.start).blockCount = 0#64 := rfl
@[simp] theorem start_blockIndex (s : State) : (s.start).blockIndex = 0#64 := rfl
@[simp] theorem start_seq (s : State) : (s.start).seq = .parse := rfl
@[simp] theorem start_opStrict (s : State) : (s.start).opStrict = s.ctrlStrict := rfl
@[simp] theorem start_opOrder (s : State) : (s.start).opOrder = s.ctrlTileOrder := rfl
@[simp] theorem start_opLen (s : State) : (s.start).opLen = s.inputLen := rfl
@[simp] theorem start_lane (s : State) : (s.start).lane = s.lane := rfl
@[simp] theorem start_otherLanes (s : State) : (s.start).otherLanes = s.otherLanes := rfl
@[simp] theorem start_inMem (s : State) : (s.start).inMem = s.inMem := rfl
@[simp] theorem start_outMem (s : State) : (s.start).outMem = s.outMem := rfl
@[simp] theorem start_portData (s : State) : (s.start).portData = s.portData := rfl
@[simp] theorem start_outData (s : State) : (s.start).outData = s.outData := rfl
@[simp] theorem start_host (s : State) : (s.start).host = s.host := rfl
@[simp] theorem start_issue (s : State) : (s.start).issue = s.issue := rfl
@[simp] theorem start_acked (s : State) : (s.start).acked = false := rfl
@[simp] theorem start_progress (s : State) : (s.start).progress = 0#64 := rfl
@[simp] theorem start_spoil (s : State) : (s.start).spoil = .clean := rfl
@[simp] theorem start_draws (s : State) : (s.start).draws = s.draws := rfl
@[simp] theorem start_resets (s : State) : (s.start).resets = s.resets := rfl
@[simp] theorem start_outScrambles (s : State) : (s.start).outScrambles = s.outScrambles := rfl


/-! ## The lanes -/

@[simp] theorem freeLanes_length (d n : Nat) : (freeLanes d n).length = n := by
  induction n with
  | zero => rfl
  | succ n ih => simp [freeLanes, ih]

/-- The next lane's turn changes which latches are at work and nothing else. -/
theorem nextLane_eq (s : State) : s.nextLane = { s with lane := s.nextLane.lane, otherLanes := s.nextLane.otherLanes } := by
  unfold State.nextLane; cases s.otherLanes <;> rfl

@[simp] theorem nextLane_lanes (s : State) : s.nextLane.lanes = s.lanes := by
  unfold State.nextLane State.lanes; split <;> simp [*]

@[simp] theorem loseLatches_lanes (s : State) : s.loseLatches.lanes = s.lanes := by simp [State.lanes]

@[simp] theorem finish_lanes (s : State) (p : Phase) : (s.finish p).lanes = s.lanes := by simp [State.lanes]

@[simp] theorem raise_lanes (s : State) (e : ErrorKind) (info : Word) : (s.raise e info).lanes = s.lanes := by
  simp [State.lanes, State.raise]

@[simp] theorem afterReset_lanes (s : State) : s.afterReset.lanes = s.lanes := by simp [State.lanes, State.afterReset]

/-! ## Derived readings -/

@[simp] theorem raise_pixels (s : State) (e : ErrorKind) (info : Word) : (s.raise e info).pixels = s.pixels := rfl
@[simp] theorem setSeq_pixels (s : State) (p : Phase) : (s.setSeq p).pixels = s.pixels := rfl
@[simp] theorem raise_inByte (s : State) (e : ErrorKind) (info : Word) (a : Nat) : (s.raise e info).inByte a = s.inByte a := rfl
@[simp] theorem setSeq_inByte (s : State) (p : Phase) (a : Nat) : (s.setSeq p).inByte a = s.inByte a := rfl
@[simp] theorem raise_busy (s : State) (e : ErrorKind) (info : Word) : (s.raise e info).busy = false := rfl

/-- A byte of OUT that an operation's error does not reach reads as before it. -/
theorem scrambleOut_outByte_above (s : State) (bound a : Nat) (h : bound ≤ a) :
    (s.scrambleOut bound).outByte a = s.outByte a := by
  have hl : (s.scrambleOut bound).outLosses a = s.outLosses a := by
    simp [State.outLosses, State.scrambleOut, Nat.not_lt.2 h]
  simp only [State.outByte, hl, scrambleOut_outMem, scrambleOut_resets]
  rw [peek_forget, if_neg (Nat.not_lt.2 h)]

theorem raise_outByte_above (s : State) (e : ErrorKind) (info : Word) (a : Nat) (h : s.pixels ≤ a) :
    (s.raise e info).outByte a = s.outByte a :=
  scrambleOut_outByte_above s s.pixels a h

end Sys2Proof.Machine
end

