-- ==== Sys2Proof/Laws/Turn.lean ====
section
/-! SUPPORT. What a step is, case by case, how a visit goes on after an operation, and all that a visit can do once the host has
written IN under the operation. -/

namespace Sys2Proof.Machine

/-- A step with an operation in the issue slot runs it. -/
theorem step_issue {s : State} {c : Code} (h : s.issue = some c) : step s = runCode c { s with issue := none } := by
  simp only [step, turn, h]

/-- A step with no request pending and nothing to do. -/
theorem step_wait {s : State} (hi : s.issue = none) (hh : s.host = []) (hb : s.busy = false) : step s = .next s := by
  simp [step, turn, hi, hh, hb]

/-- A step with no request pending, while an operation runs. -/
theorem step_turn {s : State} (hi : s.issue = none) (hh : s.host = []) (hb : s.busy = true) : step s = decoderTurn s := by
  simp [step, turn, hi, hh, hb]

/-- A step serves the host's request if the decoder waits or the request's wait is used up. -/
theorem step_host {s : State} {r : Request} {rest : List Request} (hi : s.issue = none)
    (hh : s.host = r :: rest) (hr : s.busy = false ∨ r.wait = 0) :
    step s = serveHost r.event { s with host := rest } := by
  rcases hr with hr | hr <;> simp [step, turn, hi, hh, hr]

/-- A step while an operation runs and the host's request waits. -/
theorem step_host_waits {s : State} {r : Request} {rest : List Request} (hi : s.issue = none)
    (hh : s.host = r :: rest) (hb : s.busy = true) (hr : r.wait ≠ 0) :
    step s = decoderTurn { s with host := { r with wait := r.wait - 1 } :: rest } := by
  simp [step, turn, hi, hh, hb, hr]

/-- The decoder visits in a clean operation. -/
theorem decoderTurn_clean {s : State} (h : s.spoil = .clean) : decoderTurn s = decoderVisit s := by
  simp only [decoderTurn, h]

/-- The decoder visits in a spoiled operation. -/
theorem decoderTurn_running {s : State} (h : s.spoil = .running) : decoderTurn s = .next s.spoiledVisit := by
  simp only [decoderTurn, h]

theorem busy_of_seq {s : State} (h : s.seq = .parse ∨ s.seq = .check ∨ s.seq = .blocks) : s.busy = true := by
  unfold State.busy; rcases h with h | h | h <;> rw [h]

theorem busy_iff {s : State} : s.busy = true ↔ s.seq = .parse ∨ s.seq = .check ∨ s.seq = .blocks := by
  unfold State.busy; cases s.seq <;> simp

/-! ## Visits -/

/-- An operation that keeps the phase is followed by the next one. -/
theorem runOps_next {p : Phase} {i : Instr} {is : List Instr} {s t : State} (h : exec i s = .next t) (hp : t.seq = p) :
    runOps p (i :: is) s = runOps p is t := by
  simp only [runOps, h, hp, if_true]

/-- An operation that changes the phase ends the visit. -/
theorem runOps_leave {p : Phase} {i : Instr} {is : List Instr} {s t : State} (h : exec i s = .next t) (hp : t.seq ≠ p) :
    runOps p (i :: is) s = .next t := by
  simp only [runOps, h, hp, if_false]

theorem runOps_nil_parse (s : State) : runOps .parse [] s = .next (s.setSeq .check) := rfl

theorem runOps_nil_blocks (s : State) : runOps .blocks [] s = .next s := rfl

/-- A visit that answers a next state answers the end of a chain of its operations: what holds of the state it begins in, and
is kept by each of its operations and by the change to CHECK, holds of that state. -/
theorem runOps_induction {P : State → Prop} {p : Phase} {is : List Instr} {s t : State} (hs : P s)
    (hop : ∀ i ∈ is, ∀ u v, P u → exec i u = .next v → P v) (hend : ∀ u, P u → P (u.setSeq .check))
    (h : runOps p is s = .next t) : P t := by
  induction is generalizing s with
  | nil =>
    simp only [runOps] at h
    split at h <;> cases h
    · exact hend _ hs
    · exact hs
  | cons i is ih =>
    simp only [runOps] at h
    split at h
    · next u hu =>
      have hPu := hop i (by simp) _ _ hs hu
      split at h
      · exact ih hPu (fun j hj => hop j (by simp [hj])) h
      · cases h; exact hPu
    · cases h
    · cases h

theorem enterVisit_other {s : State} (h : s.seq ≠ .blocks) : s.enterVisit = s := by
  simp only [State.enterVisit, h, if_false]

theorem enterVisit_blocks {s : State} (h : s.seq = .blocks) : s.enterVisit = s.nextLane := by
  simp only [State.enterVisit, h, if_true]

/-- A visit begins with another lane at work, and nothing else changed. -/
theorem enterVisit_eq (s : State) :
    s.enterVisit = { s with lane := s.enterVisit.lane, otherLanes := s.enterVisit.otherLanes } := by
  unfold State.enterVisit; split
  · exact nextLane_eq s
  · rfl

@[simp] theorem enterVisit_lanes (s : State) : s.enterVisit.lanes = s.lanes := by
  unfold State.enterVisit; split <;> simp

/-! ## The end of a spoiled operation -/

@[simp] theorem endSpoiled_seq (s : State) (p : Phase) : (s.endSpoiled p).seq = p := rfl
@[simp] theorem endSpoiled_spoil (s : State) (p : Phase) : (s.endSpoiled p).spoil = .ended := rfl
@[simp] theorem endSpoiled_outMem (s : State) (p : Phase) : (s.endSpoiled p).outMem = s.outMem.forget s.outCapacity := rfl
@[simp] theorem endSpoiled_lanes (s : State) (p : Phase) : (s.endSpoiled p).lanes = s.lanes := by
  unfold State.endSpoiled; rw [finish_lanes]; rfl
@[simp] theorem endSpoiled_inCapacity (s : State) (p : Phase) : (s.endSpoiled p).inCapacity = s.inCapacity := rfl
@[simp] theorem endSpoiled_outCapacity (s : State) (p : Phase) : (s.endSpoiled p).outCapacity = s.outCapacity := rfl
@[simp] theorem endSpoiled_ctrlStrict (s : State) (p : Phase) : (s.endSpoiled p).ctrlStrict = s.ctrlStrict := rfl
@[simp] theorem endSpoiled_ctrlTileOrder (s : State) (p : Phase) : (s.endSpoiled p).ctrlTileOrder = s.ctrlTileOrder := rfl
@[simp] theorem endSpoiled_ctrlIe (s : State) (p : Phase) : (s.endSpoiled p).ctrlIe = s.ctrlIe := rfl
@[simp] theorem endSpoiled_inputLen (s : State) (p : Phase) : (s.endSpoiled p).inputLen = s.inputLen := rfl
@[simp] theorem endSpoiled_opStrict (s : State) (p : Phase) : (s.endSpoiled p).opStrict = s.opStrict := rfl
@[simp] theorem endSpoiled_opOrder (s : State) (p : Phase) : (s.endSpoiled p).opOrder = s.opOrder := rfl
@[simp] theorem endSpoiled_opLen (s : State) (p : Phase) : (s.endSpoiled p).opLen = s.opLen := rfl
@[simp] theorem endSpoiled_inMem (s : State) (p : Phase) : (s.endSpoiled p).inMem = s.inMem := rfl
@[simp] theorem endSpoiled_portData (s : State) (p : Phase) : (s.endSpoiled p).portData = s.portData := rfl
@[simp] theorem endSpoiled_outData (s : State) (p : Phase) : (s.endSpoiled p).outData = s.outData := rfl
@[simp] theorem endSpoiled_host (s : State) (p : Phase) : (s.endSpoiled p).host = s.host := rfl
@[simp] theorem endSpoiled_issue (s : State) (p : Phase) : (s.endSpoiled p).issue = s.issue := rfl
@[simp] theorem endSpoiled_acked (s : State) (p : Phase) : (s.endSpoiled p).acked = s.acked := rfl
@[simp] theorem endSpoiled_progress (s : State) (p : Phase) : (s.endSpoiled p).progress = s.progress := rfl
@[simp] theorem endSpoiled_resets (s : State) (p : Phase) : (s.endSpoiled p).resets = s.resets := rfl

/-! ## Visits of a spoiled operation -/

theorem freeCount_lt (s : State) : s.freeCount.toNat < 2 ^ 60 := by
  unfold State.freeCount
  rw [BitVec.toNat_setWidth]
  exact Nat.lt_of_le_of_lt (Nat.mod_le _ _) (BitVec.isLt _)

/-- All that a visit of a spoiled operation can do (10_state.md R26, 41_decode_dispatch.md R168, 20_memory.md R78). -/
theorem spoiledVisit_cases {s : State} (hb : s.busy = true) :
    s.spoiledVisit = s.drew.endSpoiled .error ∨
    (s.seq = .parse ∧ s.spoiledVisit = s.drew.setSeq .check) ∨
    (s.seq = .check ∧ (s.spoiledVisit = s.drew.drew.endSpoiled .done ∨
      ∃ n : DWord, n ≠ 0#64 ∧ n.toNat < 2 ^ 60 ∧
        s.spoiledVisit = { s.drew.drew.setSeq .blocks with blockCount := n, blockIndex := 0#64 })) ∨
    (s.seq = .blocks ∧
      ((s.blockIndex + 1#64 = s.blockCount ∧ s.spoiledVisit = s.drew.drew.endSpoiled .done) ∨
        (s.blockIndex + 1#64 ≠ s.blockCount ∧ ∃ (l : Latches) (ls : List Latches),
          s.spoiledVisit = { s.drew.drew with lane := l, otherLanes := ls, blockIndex := s.blockIndex + 1#64 } ∧
          ls.length = s.otherLanes.length))) := by
  unfold State.spoiledVisit
  split
  · exact .inl rfl
  · rcases busy_iff.1 hb with hq | hq | hq <;> simp only [hq]
    · exact .inr (.inl ⟨trivial, trivial⟩)
    · refine .inr (.inr (.inl ⟨trivial, ?_⟩))
      unfold State.spoiledCheck
      split
      · exact .inl rfl
      · next h => exact .inr ⟨_, h, freeCount_lt _, rfl⟩
    · refine .inr (.inr (.inr ⟨trivial, ?_⟩))
      unfold State.spoiledBlock
      split
      · next h => exact .inl ⟨h, rfl⟩
      · next h =>
        refine .inr ⟨h, Config.freeLatches s.drew.draws 0, s.drew.drew.nextLane.otherLanes, ?_, ?_⟩
        · rw [nextLane_eq s.drew.drew]; rfl
        · exact Nat.succ.inj (nextLane_lanes s.drew.drew)

/-- What a visit of a spoiled operation leaves alone: the parameters, IN, the configuration and the values latched at START, the
values last read, the host's requests and the issue slot; of OUT all bytes, unless it ends the operation. -/
structure SpoiledFrame (s t : State) : Prop where
  inCapacity : t.inCapacity = s.inCapacity
  outCapacity : t.outCapacity = s.outCapacity
  lanes : t.lanes = s.lanes
  inMem : t.inMem = s.inMem
  outMem : t.outMem = s.outMem ∨ (t.spoil = .ended ∧ t.outMem = s.outMem.forget s.outCapacity)
  ctrlStrict : t.ctrlStrict = s.ctrlStrict
  ctrlTileOrder : t.ctrlTileOrder = s.ctrlTileOrder
  ctrlIe : t.ctrlIe = s.ctrlIe
  inputLen : t.inputLen = s.inputLen
  opStrict : t.opStrict = s.opStrict
  opOrder : t.opOrder = s.opOrder
  opLen : t.opLen = s.opLen
  portData : t.portData = s.portData
  outData : t.outData = s.outData
  host : t.host = s.host
  issue : t.issue = s.issue
  acked : t.acked = s.acked
  progress : t.progress = s.progress
  resets : t.resets = s.resets

theorem spoiledVisit_frame {s : State} (hb : s.busy = true) : SpoiledFrame s s.spoiledVisit := by
  rcases spoiledVisit_cases hb with h | ⟨-, h⟩ | ⟨-, h | ⟨n, -, -, h⟩⟩ | ⟨-, ⟨-, h⟩ | ⟨-, l, ls, h, hl⟩⟩ <;> rw [h] <;>
    constructor <;> first | exact endSpoiled_lanes _ _ | simp [State.lanes, *]

end Sys2Proof.Machine
end

