-- ==== Sys2Proof/Laws/Exec.lean ====
section
/-! SUPPORT. What the shared operations compute and what an operation can do, said once: little-endian words, palette
entries, tile places and addresses, the register port, the buffers, sequences of operations, runs. -/

namespace Sys2Proof.Machine

/-! ## Words -/

/-- Concatenation as arithmetic. -/
theorem toNat_append_eq {m n : Nat} (x : BitVec m) (y : BitVec n) : (x ++ y).toNat = x.toNat * 2 ^ n + y.toNat := by
  rw [BitVec.toNat_append, ← Nat.shiftLeft_add_eq_or_of_lt y.isLt, Nat.shiftLeft_eq]

/-- Vectors differ exactly if their values do. -/
theorem ne_iff_toNat_ne {n : Nat} {x y : BitVec n} : x ≠ y ↔ x.toNat ≠ y.toNat :=
  ⟨fun h h' => h (BitVec.eq_of_toNat_eq h'), fun h h' => h (congrArg _ h')⟩

/-- Four bytes in one word are equal exactly if each is. -/
theorem append4_eq (a b c d a' b' c' d' : Byte) :
    (a ++ b ++ c ++ d = a' ++ b' ++ c' ++ d') ↔ a = a' ∧ b = b' ∧ c = c' ∧ d = d' := by
  constructor
  · intro h
    have h := congrArg BitVec.toNat h
    simp only [toNat_append_eq] at h
    bv_omega
  · rintro ⟨rfl, rfl, rfl, rfl⟩; rfl

/-- The little-endian sum of four bytes. -/
theorem leSum_four (buf : Nat → Byte) (off : Nat) : Spec.leSum buf off 4 =
    (buf off).toNat + (buf (off + 1)).toNat * 256 + (buf (off + 2)).toNat * 65536 + (buf (off + 3)).toNat * 16777216 := by
  simp [Spec.leSum, Finset.sum_range_succ]

/-- A word of IN is the little-endian sum of its bytes. -/
theorem inWord_toNat (s : State) (off : Nat) : (s.inWord off).toNat = Spec.leSum s.inByte off 4 := by
  rw [leSum_four]
  simp only [State.inWord, State.inBytes, leNat, BitVec.toNat_ofNat, Nat.add_assoc, Nat.reduceAdd]
  have h0 := (s.inByte off).isLt; have h1 := (s.inByte (off + 1)).isLt
  have h2 := (s.inByte (off + 2)).isLt; have h3 := (s.inByte (off + 3)).isLt
  omega

/-- A word of IN is its bytes, the last one most significant. -/
theorem inWord_eq (s : State) (off : Nat) :
    s.inWord off = s.inByte (off + 3) ++ s.inByte (off + 2) ++ s.inByte (off + 1) ++ s.inByte off := by
  apply BitVec.eq_of_toNat_eq
  rw [inWord_toNat, leSum_four, toNat_append_eq, toNat_append_eq, toNat_append_eq]
  omega

/-- The two failed-check bits as a number. -/
theorem failedBits_toNat (a b : Bool) : (failedBits a b).toNat = a.toNat + 2 * b.toNat := by
  cases a <;> cases b <;> rfl

/-- `W * H` never wraps. -/
theorem pixels_lt (s : State) : s.pixels < 2 ^ 64 := by
  have h : s.pixels < 2 ^ 32 * 2 ^ 32 := Nat.mul_lt_mul'' s.hdrWidth.isLt s.hdrHeight.isLt
  simpa using h

/-! ## Palette entries -/

/-- An interpolated entry fits 8 bits (42_block_decompress.md R198). -/
theorem interpolate_toNat (d k : Nat) (a0 a1 : Byte) (hd : 0 < d) (hk : k ≤ d) :
    (interpolate d k a0 a1).toNat = (a0.toNat * (d - k) + a1.toNat * k) / d := by
  simp only [interpolate, BitVec.toNat_ofNat]
  apply Nat.mod_eq_of_lt
  have h0 := a0.isLt; have h1 := a1.isLt
  have h : a0.toNat * (d - k) + a1.toNat * k ≤ 255 * d := by
    calc _ ≤ 255 * (d - k) + 255 * k :=
          Nat.add_le_add (Nat.mul_le_mul_right _ (by omega)) (Nat.mul_le_mul_right _ (by omega))
      _ = 255 * d := by rw [← Nat.mul_add]; congr 1; omega
  have h := Nat.div_le_div_right (c := d) h
  rw [Nat.mul_div_cancel _ hd] at h; omega

/-- The entries of the 6-value mode in the spec's arithmetic. -/
theorem entry6_toNat (a0 a1 : Byte) (i : Fin 8) : (entry6 a0 a1 i).toNat =
    ([a0.toNat, a1.toNat] ++ (List.range' 1 6).map fun k => (a0.toNat * (7 - k) + a1.toNat * k) / 7).getD i.val 0 := by
  fin_cases i <;> simp [entry6, interpolate_toNat, List.range']

/-- The entries of the 4-value mode in the spec's arithmetic. -/
theorem entry4_toNat (a0 a1 : Byte) (i : Fin 8) : (entry4 a0 a1 i).toNat =
    ([a0.toNat, a1.toNat] ++ ((List.range' 1 4).map fun k => (a0.toNat * (5 - k) + a1.toNat * k) / 5) ++ [0, 255]).getD
      i.val 0 := by
  fin_cases i <;> simp [entry4, interpolate_toNat, List.range']

/-- The mode, as a comparison of values. -/
theorem modeOf_iff (a0 a1 : Byte) : modeOf a0 a1 = true ↔ a0.toNat > a1.toNat := by simp [modeOf, BitVec.lt_def]

/-- A group of the index field as a number. -/
theorem extractedIndex_toNat (idx : BitVec 48) (j : Fin 16) :
    (extractedIndex idx j).toNat = idx.toNat / 2 ^ (45 - 3 * j.val) % 8 := by
  simp [extractedIndex, BitVec.extractLsb'_toNat, Nat.shiftRight_eq_div_pow]

/-! ## Tile places and addresses -/

/-- A block's place lies in the tile grid. -/
theorem placeOf_lt {o : TileOrder} {th tw t : Nat} (h : t < th * tw) :
    (placeOf o th tw t).1 < th ∧ (placeOf o th tw t).2 < tw := by
  have h1 : 0 < th := Nat.pos_of_ne_zero (by rintro rfl; simp at h)
  have h2 : 0 < tw := Nat.pos_of_ne_zero (by rintro rfl; simp at h)
  cases o <;> simp only [placeOf]
  · exact ⟨Nat.mod_lt _ h1, Nat.div_lt_of_lt_mul h⟩
  · exact ⟨Nat.div_lt_of_lt_mul (by rwa [Nat.mul_comm]), Nat.mod_lt _ h2⟩

/-- Two blocks at one place are one block. -/
theorem placeOf_injective {o : TileOrder} {th tw t t' : Nat} (h : placeOf o th tw t = placeOf o th tw t') : t = t' := by
  cases o <;> simp only [placeOf, Prod.mk.injEq] at h
  · rw [← Nat.div_add_mod t th, ← Nat.div_add_mod t' th, h.1, h.2]
  · rw [← Nat.div_add_mod t tw, ← Nat.div_add_mod t' tw, h.1, h.2]

/-- Every place of the grid is some block's. -/
theorem placeOf_surjective {o : TileOrder} {th tw r c : Nat} (hr : r < th) (hc : c < tw) :
    ∃ t, t < th * tw ∧ placeOf o th tw t = (r, c) := by
  cases o
  · refine ⟨c * th + r, ?_, ?_⟩
    · calc c * th + r < c * th + th := by omega
        _ = (c + 1) * th := by rw [Nat.succ_mul]
        _ ≤ tw * th := Nat.mul_le_mul_right _ (by omega)
        _ = th * tw := Nat.mul_comm _ _
    · simp only [placeOf]
      rw [Nat.mul_comm, Nat.mul_add_mod, Nat.mod_eq_of_lt hr, Nat.mul_add_div (by omega), Nat.div_eq_of_lt hr]; simp
  · refine ⟨r * tw + c, ?_, ?_⟩
    · calc r * tw + c < r * tw + tw := by omega
        _ = (r + 1) * tw := by rw [Nat.succ_mul]
        _ ≤ th * tw := Nat.mul_le_mul_right _ (by omega)
    · simp only [placeOf]
      rw [Nat.mul_comm, Nat.mul_add_mod, Nat.mod_eq_of_lt hc, Nat.mul_add_div (by omega), Nat.div_eq_of_lt hc]; simp

/-- The cells of a tile write. -/
theorem mem_tileCells (s : State) (c : Host.Cell) :
    c ∈ s.tileCells ↔ ∃ y x : Fin 4, c = (s.pixelAddress y.val x.val, s.lane.tile[y][x]) := by
  unfold State.tileCells
  rw [List.mem_map]
  constructor
  · rintro ⟨p, -, rfl⟩; exact ⟨_, _, rfl⟩
  · rintro ⟨y, x, rfl⟩
    have all : ∀ p : Fin 16, p ∈ allPixels := by decide
    have row : ∀ y x, pixelRow (pixelNumber y x) = y := by decide
    have col : ∀ y x, pixelCol (pixelNumber y x) = x := by decide
    have at_ : ∀ {p q y x : Fin 4}, p = y → q = x →
        (s.pixelAddress p.val q.val, s.lane.tile[p][q]) = (s.pixelAddress y.val x.val, s.lane.tile[y][x]) := by
      rintro _ _ _ _ rfl rfl; rfl
    exact ⟨pixelNumber y x, all _, at_ (row _ _) (col _ _)⟩

/-- With W >= 4 the sixteen addresses of a tile differ. -/
theorem pixelAddress_injective {s : State} (hw : 4 ≤ s.width) {y x y' x' : Fin 4}
    (h : s.pixelAddress y.val x.val = s.pixelAddress y'.val x'.val) : y = y' ∧ x = x' := by
  simp only [State.pixelAddress] at h
  have hx := x.isLt; have hx' := x'.isLt
  have hrow : 4 * s.lane.placeRow + y.val = 4 * s.lane.placeRow + y'.val := by
    by_contra hne
    rcases Nat.lt_or_gt_of_ne hne with hl | hl
    · have h' := Nat.mul_le_mul_right s.width (Nat.succ_le_of_lt hl)
      rw [Nat.succ_mul] at h'; omega
    · have h' := Nat.mul_le_mul_right s.width (Nat.succ_le_of_lt hl)
      rw [Nat.succ_mul] at h'; omega
  rw [hrow] at h
  exact ⟨Fin.ext (by omega), Fin.ext (by omega)⟩

/-- With W >= 4 a tile write stores to sixteen addresses. -/
theorem tileCells_nodup (s : State) (hw : 4 ≤ s.width) : (s.tileCells.map Prod.fst).Nodup := by
  unfold State.tileCells
  rw [List.map_map]
  apply List.Nodup.map_on
  · intro p _ q _ h
    have h := pixelAddress_injective hw h
    have key : ∀ p q, pixelRow p = pixelRow q → pixelCol p = pixelCol q → p = q := by decide
    exact key p q h.1 h.2
  · decide

/-! ## The register port -/

/-- A write by offset ignores, configures, starts, or stores a length. -/
theorem writePort_cases (s : State) (off : Byte) (data : Word) :
    s.writePort off data = s ∨ s.writePort off data = s.configure data ∨ s.writePort off data = (s.configure data).start ∨
      ∃ len, s.writePort off data = { s with inputLen := len } := by
  unfold State.writePort State.writeStart State.writeConfig State.writeLen
  split
  · split <;> split <;> simp
  · split
    · split
      · simp
      · exact .inr (.inr (.inr ⟨_, rfl⟩))
    · simp

/-- A read changes the returned value and the model's bookkeeping of reads only. -/
theorem readPort_cases (s : State) (off : Byte) :
    ∃ p a d g, s.readPort off = { s with portData := p, acked := a, draws := d, progress := g } := by
  unfold State.readPort
  split
  · exact ⟨_, _, _, _, rfl⟩
  · split
    · exact ⟨_, _, _, _, rfl⟩
    · split <;> exact ⟨_, _, _, _, rfl⟩

/-- The BLOCK_INDEX shown while BUSY is within 10_state.md R49's bounds. -/
theorem shownIndex_bounds {s : State} (h : s.progress ≤ s.blockCount) :
    s.progress ≤ s.shownIndex ∧ s.shownIndex ≤ s.blockCount := by
  unfold State.shownIndex
  split
  · bv_omega
  · split <;> bv_omega

/-! ## What an operation can do to the buffers -/

/-- Error entry is `ErrorEntered`. -/
theorem raise_entered (s : State) (e : ErrorKind) (info : Word) :
    s.ErrorEntered (s.raise e info) e.code.toNat info.toNat := by
  refine ⟨rfl, rfl, rfl, raise_lanes s e info, rfl, ?_, fun a ha => raise_outByte_above s e info a ha⟩
  intro a ha
  show (s.outMem.forget s.pixels).peek a = none
  rw [peek_forget]; simp; intro h; omega

/-- What any operation does to the buffers: IN, the parameters and the reset count stay; OUT stays, or loses the PixelArray
on error entry, or takes a tile. -/
structure BufferFrame (i : Instr) (s t : State) : Prop where
  inMem : t.inMem = s.inMem
  resets : t.resets = s.resets
  inCapacity : t.inCapacity = s.inCapacity
  outCapacity : t.outCapacity = s.outCapacity
  lanes : t.lanes = s.lanes
  out : (t.outMem = s.outMem ∧ t.outScrambles = s.outScrambles) ∨
    (t.seq = .error ∧ t.outMem = s.outMem.forget s.pixels ∧ t.outScrambles = s.pixels :: s.outScrambles) ∨
    (i = .taTileWrite ∧ (∀ c ∈ s.tileCells, c.1 < s.outCapacity) ∧ t.outMem = s.outMem.pokeAll s.tileCells ∧
      t.outScrambles = s.outScrambles)

/-- An operation that touches no buffer. -/
theorem BufferFrame.same {i : Instr} {s t : State} (h1 : t.inMem = s.inMem) (h2 : t.resets = s.resets)
    (h3 : t.inCapacity = s.inCapacity) (h4 : t.outCapacity = s.outCapacity) (h5 : t.outMem = s.outMem)
    (h6 : t.outScrambles = s.outScrambles) (h7 : t.lanes = s.lanes) : BufferFrame i s t :=
  ⟨h1, h2, h3, h4, h7, .inl ⟨h5, h6⟩⟩

/-- An operation that touches no buffer and raises. -/
theorem BufferFrame.raised {i : Instr} {s u : State} (e : ErrorKind) (info : Word) (h1 : u.inMem = s.inMem)
    (h2 : u.resets = s.resets) (h3 : u.inCapacity = s.inCapacity) (h4 : u.outCapacity = s.outCapacity)
    (h5 : u.outMem = s.outMem) (h6 : u.outScrambles = s.outScrambles) (h7 : u.pixels = s.pixels)
    (h8 : u.lanes = s.lanes) : BufferFrame i s (u.raise e info) := by
  refine ⟨h1, h2, h3, h4, (raise_lanes u e info).trans h8, .inr (.inl ⟨rfl, ?_, ?_⟩)⟩
  · show u.outMem.forget u.pixels = _; rw [h5, h7]
  · show u.pixels :: u.outScrambles = _; rw [h6, h7]

theorem exec_bufferFrame {i : Instr} {s t : State} (h : exec i s = .next t) : BufferFrame i s t := by
  cases i
  case fmtDx10 | fmtOther => cases h; exact .raised _ _ rfl rfl rfl rfl rfl rfl rfl rfl
  case cmdStart =>
    simp only [exec, execCmdStart, State.writeStart] at h
    split at h <;> cases h <;> exact .same rfl rfl rfl rfl rfl rfl rfl
  case cmdConfig =>
    simp only [exec, execCmdConfig, State.writeConfig] at h
    split at h <;> cases h <;> exact .same rfl rfl rfl rfl rfl rfl rfl
  case cmdSetlen =>
    simp only [exec, execCmdSetlen, State.writeLen] at h
    split at h <;> cases h <;> exact .same rfl rfl rfl rfl rfl rfl rfl
  case regWrite off d =>
    simp only [exec, execRegWrite] at h; split at h <;> cases h
    rcases writePort_cases s off d with h | h | h | ⟨l, h⟩ <;> rw [h] <;> exact .same rfl rfl rfl rfl rfl rfl rfl
  case regRead off =>
    simp only [exec, execRegRead] at h; split at h <;> cases h
    obtain ⟨p, a, d, g, h⟩ := readPort_cases s off
    rw [h]; exact .same rfl rfl rfl rfl rfl rfl rfl
  case hpLengthCheck =>
    simp only [exec, execHpLengthCheck] at h; split at h <;> cases h
    · exact .raised _ _ rfl rfl rfl rfl rfl rfl rfl rfl
    · exact .same rfl rfl rfl rfl rfl rfl rfl
  case hpReadFields =>
    simp only [exec, execHpReadFields, State.readingIn] at h; split at h <;> cases h; exact .same rfl rfl rfl rfl rfl rfl rfl
  case hpDx10Detect =>
    simp only [exec, execHpDx10Detect, State.readingIn] at h; split at h <;> cases h; exact .same rfl rfl rfl rfl rfl rfl rfl
  case hpStrictCheck =>
    simp only [exec, execHpStrictCheck] at h; split at h <;> cases h
    · exact .raised _ _ rfl rfl rfl rfl rfl rfl rfl rfl
    · exact .same rfl rfl rfl rfl rfl rfl rfl
  case dsFormatCheck =>
    simp only [exec, execDsFormatCheck, State.readingIn] at h; split at h
    · cases h
    · split at h <;> cases h
      · exact .same rfl rfl rfl rfl rfl rfl rfl
      · exact .raised _ _ rfl rfl rfl rfl rfl rfl rfl rfl
  case dsAlignCheck =>
    simp only [exec, execDsAlignCheck] at h; split at h <;> cases h
    · exact .raised _ _ rfl rfl rfl rfl rfl rfl rfl rfl
    · exact .same rfl rfl rfl rfl rfl rfl rfl
  case dsCapacityCheck =>
    simp only [exec, execDsCapacityCheck] at h; split at h
    · cases h; exact .raised _ _ rfl rfl rfl rfl rfl rfl rfl rfl
    · split at h <;> cases h
      · exact .same rfl rfl rfl rfl rfl rfl (finish_lanes s .done)
      · exact .same rfl rfl rfl rfl rfl rfl rfl
  case sqBlockFetch =>
    simp only [exec, execSqBlockFetch, State.readingIn] at h; split at h
    · cases h; exact .raised _ _ rfl rfl rfl rfl rfl rfl rfl rfl
    · split at h <;> cases h; exact .same rfl rfl rfl rfl rfl rfl rfl
  case bdPal6 => simp only [exec, execBdPal6] at h; split at h <;> cases h <;> exact .same rfl rfl rfl rfl rfl rfl rfl
  case bdPal4 => simp only [exec, execBdPal4] at h; split at h <;> cases h <;> exact .same rfl rfl rfl rfl rfl rfl rfl
  case bdPal4Const =>
    simp only [exec, execBdPal4Const] at h; split at h <;> cases h <;> exact .same rfl rfl rfl rfl rfl rfl rfl
  case taTilePlace =>
    simp only [exec, execTaTilePlace] at h; split at h <;> cases h <;> exact .same rfl rfl rfl rfl rfl rfl rfl
  case taTileWrite =>
    simp only [exec, execTaTileWrite] at h; split at h <;> cases h
    next hc =>
    simp only [List.all_eq_true, decide_eq_true_eq] at hc
    exact ⟨rfl, rfl, rfl, rfl, rfl, .inr (.inr ⟨rfl, hc, rfl, rfl⟩)⟩
  case sqAdvance =>
    simp only [exec, execSqAdvance] at h; split at h <;> cases h
    · exact .same rfl rfl rfl rfl rfl rfl (finish_lanes { s with blockIndex := s.blockIndex + 1#64 } .done)
    · exact .same rfl rfl rfl rfl rfl rfl rfl
  all_goals (cases h; exact .same rfl rfl rfl rfl rfl rfl rfl)

/-- A host write to IN puts each byte in its place. -/
theorem peek_cellsFrom (bs : List Byte) (a k : Nat) (m : Memory) (h : k < bs.length) :
    (m.pokeAll (cellsFrom a bs)).peek (a + k) = some bs[k] := by
  induction bs generalizing a k m with
  | nil => cases h
  | cons b bs ih =>
    simp only [cellsFrom, Memory.pokeAll]
    cases k with
    | zero =>
      rw [peek_pokeAll_other]
      · simp
      · intro c hc; have hc := (mem_cellsFrom hc).1; omega
    | succ k =>
      have ih := ih (a + 1) k (m.poke a b) (by simpa using h)
      rw [show a + (k + 1) = a + 1 + k by omega, ih]; simp

/-! ## Sequences of operations and of steps -/

theorem execAll_cons {i : Instr} {is : List Instr} {s t : State} (h : exec i s = .next t) :
    execAll (i :: is) s = execAll is t := by
  simp only [execAll, h]

theorem execAll_one (i : Instr) (s : State) : execAll [i] s = exec i s := by
  simp only [execAll]; split <;> simp [*]

/-- A step with an empty issue slot waits, serves the host's first request, or is the decoder's. -/
theorem step_next_cases {s t : State} (hi : s.issue = none) (h : step s = .next t) :
    t = s ∨
    (∃ r rest, s.host = r :: rest ∧ serveHost r.event { s with host := rest } = .next t ∧ (s.busy = false ∨ r.wait = 0)) ∨
    (∃ requests, decoderTurn { s with host := requests } = .next t ∧ s.busy = true) := by
  simp only [step, turn] at h
  split at h
  · next hc => rw [hi] at hc; cases hc
  split at h
  · split at h
    · next hb => exact .inr (.inr ⟨s.host, h, hb⟩)
    · cases h; exact .inl rfl
  · next r rest hh =>
    split at h
    · next hb => simp only [Bool.and_eq_true] at hb; exact .inr (.inr ⟨_, h, hb.1⟩)
    · next hb =>
      refine .inr (.inl ⟨r, rest, hh, h, ?_⟩)
      simp only [Bool.and_eq_true, bne_iff_ne, ne_eq, not_and, not_not] at hb
      cases hs : s.busy
      · exact .inl rfl
      · exact .inr (hb hs)

/-- An operation of a phase's order is one of its list. -/
theorem decodeSeq_mem {p : Phase} {u : Nat} {i : Instr} (h : decodeSeq (phaseCode p) u = .ok i) : i ∈ phaseOps p := by
  have key : ∀ {l : List Instr} {n : Nat}, opAt l n = .ok i → i ∈ l := by
    intro l; induction l with
    | nil => intro n h; cases h
    | cons a l ih =>
      intro n h; cases n with
      | zero => cases h; simp
      | succ n => exact List.mem_cons_of_mem _ (ih h)
  cases p <;> simp only [decodeSeq, phaseCode] at h <;> simp at h <;> exact key h

theorem runs_one {s t : State} (h : step s = .next t) : s.Runs 1 t := by
  have h : Sys2Proof.core.step s = .next t := h
  unfold State.Runs; simp only [Host.Core.run]; rw [h]

theorem runs_add {j k : Nat} {s t u : State} (h1 : s.Runs j t) (h2 : t.Runs k u) : s.Runs (j + k) u := by
  induction j generalizing s with
  | zero => cases h1; simpa using h2
  | succ j ih =>
    rw [show j + 1 + k = (j + k) + 1 by omega]
    unfold State.Runs at *
    simp only [Host.Core.run] at h1 ⊢
    split at h1
    · exact ih h1
    · cases h1
    · cases h1

end Sys2Proof.Machine
end

