-- ==== Sys2Proof/Laws/PerInstr.lean ====
section
/-! SUPPORT. The family RoundTrip: for each operation, decoding its encoded value gives it back if it is well formed. -/

namespace Sys2Proof.Laws.RoundTrip

/-- Decode of encode of the operation is the operation, if it is well formed. -/
def Statement (i : Instr) : Prop := i.wellFormed = true → decode (encode i) = .ok i

theorem fmtBc4u : Statement (.fmtBc4u) := fun _ => rfl

theorem fmtDx10 : Statement (.fmtDx10) := fun _ => rfl

theorem fmtOther (code : Word) : Statement (.fmtOther code) := by
  intro h
  simp only [Instr.wellFormed, Bool.and_eq_true, bne_iff_ne] at h
  simp [encode, decode, decodeFourcc, h.1, h.2]

theorem blkMode6 (a0 : Byte) (a1 : Byte) (idx : BitVec 48) : Statement (.blkMode6 a0 a1 idx) := by
  intro h
  simp only [Instr.wellFormed, decide_eq_true_eq] at h
  simp [encode, decode, decodeBlock, h]

theorem blkMode4 (a0 : Byte) (a1 : Byte) (idx : BitVec 48) : Statement (.blkMode4 a0 a1 idx) := by
  intro h
  simp only [Instr.wellFormed, decide_eq_true_eq] at h
  simp [encode, decode, decodeBlock, BitVec.not_lt.2 h]

theorem sel6E0 (lane : Fin 16) : Statement (.sel6E0 lane) := fun _ => rfl

theorem sel6E1 (lane : Fin 16) : Statement (.sel6E1 lane) := fun _ => rfl

theorem sel6E2 (lane : Fin 16) : Statement (.sel6E2 lane) := fun _ => rfl

theorem sel6E3 (lane : Fin 16) : Statement (.sel6E3 lane) := fun _ => rfl

theorem sel6E4 (lane : Fin 16) : Statement (.sel6E4 lane) := fun _ => rfl

theorem sel6E5 (lane : Fin 16) : Statement (.sel6E5 lane) := fun _ => rfl

theorem sel6E6 (lane : Fin 16) : Statement (.sel6E6 lane) := fun _ => rfl

theorem sel6E7 (lane : Fin 16) : Statement (.sel6E7 lane) := fun _ => rfl

theorem sel4E0 (lane : Fin 16) : Statement (.sel4E0 lane) := fun _ => rfl

theorem sel4E1 (lane : Fin 16) : Statement (.sel4E1 lane) := fun _ => rfl

theorem sel4E2 (lane : Fin 16) : Statement (.sel4E2 lane) := fun _ => rfl

theorem sel4E3 (lane : Fin 16) : Statement (.sel4E3 lane) := fun _ => rfl

theorem sel4E4 (lane : Fin 16) : Statement (.sel4E4 lane) := fun _ => rfl

theorem sel4E5 (lane : Fin 16) : Statement (.sel4E5 lane) := fun _ => rfl

theorem sel4E6 (lane : Fin 16) : Statement (.sel4E6 lane) := fun _ => rfl

theorem sel4E7 (lane : Fin 16) : Statement (.sel4E7 lane) := fun _ => rfl

theorem cmdStart (wd : Word) : Statement (.cmdStart wd) := by
  intro h
  simp_all [Instr.wellFormed, encode, decode, decodeRegacc_accessWord, offAligned, offCtrl]

theorem cmdConfig (wd : Word) : Statement (.cmdConfig wd) := by
  intro h
  simp_all [Instr.wellFormed, encode, decode, decodeRegacc_accessWord, offAligned, offCtrl]

theorem cmdSetlen (len : Word) : Statement (.cmdSetlen len) := by
  intro h
  simp_all [Instr.wellFormed, encode, decode, decodeRegacc_accessWord, offAligned, offCtrl, offInputLen]

theorem regWrite (off : Byte) (data : Word) : Statement (.regWrite off data) := by
  intro h
  simp_all [Instr.wellFormed, encode, decode, decodeRegacc_accessWord]

theorem regRead (off : Byte) : Statement (.regRead off) := by
  intro h
  simp_all [Instr.wellFormed, encode, decode, decodeRegacc_accessWord]

theorem hpLengthCheck : Statement (.hpLengthCheck) := fun _ => rfl

theorem hpReadFields : Statement (.hpReadFields) := fun _ => rfl

theorem hpDx10Detect : Statement (.hpDx10Detect) := fun _ => rfl

theorem hpDataOffset : Statement (.hpDataOffset) := fun _ => rfl

theorem hpStrictCheck : Statement (.hpStrictCheck) := fun _ => rfl

theorem dsFormatCheck : Statement (.dsFormatCheck) := fun _ => rfl

theorem dsAlignCheck : Statement (.dsAlignCheck) := fun _ => rfl

theorem dsBlockCount : Statement (.dsBlockCount) := fun _ => rfl

theorem dsCapacityCheck : Statement (.dsCapacityCheck) := fun _ => rfl

theorem sqBlockFetch : Statement (.sqBlockFetch) := fun _ => rfl

theorem bdRefUnpack : Statement (.bdRefUnpack) := fun _ => rfl

theorem bdIdxAssemble : Statement (.bdIdxAssemble) := fun _ => rfl

theorem bdIdxSplit : Statement (.bdIdxSplit) := fun _ => rfl

theorem bdPixelOrder : Statement (.bdPixelOrder) := fun _ => rfl

theorem bdModeSelect : Statement (.bdModeSelect) := fun _ => rfl

theorem bdPalEndpoints : Statement (.bdPalEndpoints) := fun _ => rfl

theorem bdPal6 : Statement (.bdPal6) := fun _ => rfl

theorem bdPal4 : Statement (.bdPal4) := fun _ => rfl

theorem bdPal4Const : Statement (.bdPal4Const) := fun _ => rfl

theorem bdSelect : Statement (.bdSelect) := fun _ => rfl

theorem bdReshape : Statement (.bdReshape) := fun _ => rfl

theorem taTilePlace : Statement (.taTilePlace) := fun _ => rfl

theorem taTileWrite : Statement (.taTileWrite) := fun _ => rfl

theorem sqAdvance : Statement (.sqAdvance) := fun _ => rfl

end Sys2Proof.Laws.RoundTrip
end

