-- ==== Sys2Proof/Laws/Safety.lean ====
section
/-! SUPPORT. Which updates keep a sound state sound (`State.Inv`): error entry, the host's register writes and reads, its
writes to IN, reset, and any operation that leaves what the invariant says of the background alone. -/

namespace Sys2Proof.Machine

/-- The two states agree on everything an operation of the decoder leaves alone and the invariant speaks of. -/
structure SameBackground (s t : State) : Prop where
  a : t.inCapacity = s.inCapacity
  b : t.outCapacity = s.outCapacity
  c : t.inMem = s.inMem
  e : t.inputLen = s.inputLen
  f : t.opLen = s.opLen
  g : t.issue = s.issue
  h : t.acked = s.acked
  i : t.progress = s.progress
  j : t.spoil = s.spoil
  k : t.resets = s.resets

/-- An operation that leaves the background alone keeps the invariant if it keeps OUT, the place, the code and the phase. -/
theorem inv_of_sameBackground {s t : State} (hs : s.Inv) (hb : s.busy = true) (hc : s.spoil = .clean) (h : SameBackground s t)
    (ho : t.outMem.wf = true) (ho' : ∀ a, t.outCapacity ≤ a → t.outMem.peek a = none)
    (hsb : t.busy = true → s.progress ≤ t.blockCount)
    (hcz : t.seq ≠ .error → t.errorCode = 0#4 ∧ t.errorInfo = 0#32)
    (hso : t.phaseSound) : t.Inv := by
  obtain ⟨ha, hb', hcc, he, hf, hg, hh, hi, hj, hk⟩ := h
  constructor
  · rw [ha]; exact hs.inCapacityLegal
  · rw [hb']; exact hs.outCapacityLegal
  · rw [hcc]; exact hs.inCanonical
  · rw [hcc, ha]; exact hs.inExists
  · exact ho
  · exact ho'
  · rw [he, ha]; exact hs.lenFits
  · rw [hf, ha]; exact hs.opLenFits
  · rw [hg]; exact hs.issueEmpty
  · intro _; rw [hh]; exact hs.busyUnacked hb
  · intro hbt; rw [hi]; exact hsb hbt
  · intro hn; rw [hj, hc] at hn; cases hn
  · intro hn; rw [hj, hc] at hn; cases hn
  · intro _ h; exact hcz h
  · intro _; exact hso

/-- Error entry from an operation that runs (60_exceptions.md R230) keeps the invariant, also after operations that left the
background and OUT alone. -/
theorem inv_raise {s u : State} (hs : s.Inv) (hb : s.busy = true) (hc : s.spoil = .clean) (h : SameBackground s u)
    (ho : u.outMem = s.outMem) (e : ErrorKind) (info : Word) (h1 : e ≠ .invalidBlockSize → u.blockIndex = 0#64)
    (h2 : e = .invalidBlockSize → u.blockIndex.toNat < u.blockCount.toNat ∧ info = u.blockIndex.extractLsb' 0 32) :
    (u.raise e info).Inv := by
  obtain ⟨ha, hb', hcc, he, hf, hg, hh, hi, hj, hk⟩ := h
  refine inv_of_sameBackground hs hb hc ⟨ha, hb', hcc, he, hf, hg, hh, hi, hj, hk⟩ ?_ ?_ ?_ ?_ ?_
  · exact forget_wf _ (ho ▸ hs.outCanonical)
  · exact below_forget _ (by rw [ho]; exact fun a h => hs.outExists a (hb' ▸ h))
  · intro h; simp at h
  · intro h; simp at h
  · show 2 ≤ e.code.toNat ∧ e.code.toNat ≤ 7 ∧ (e.code ≠ 6#4 → u.blockIndex = 0#64) ∧
      (e.code = 6#4 → u.blockIndex.toNat < u.blockCount.toNat ∧ info = u.blockIndex.extractLsb' 0 32)
    refine ⟨?_, ?_, ?_, ?_⟩
    · cases e <;> decide
    · cases e <;> decide
    · intro h; apply h1; rintro rfl; exact h rfl
    · intro h; apply h2; revert h; cases e <;> decide

/-- The invariant does not speak of the host queue. -/
theorem inv_host {s : State} (hs : s.Inv) (h : List Request) : ({ s with host := h } : State).Inv :=
  ⟨hs.inCapacityLegal, hs.outCapacityLegal, hs.inCanonical, hs.inExists,
    hs.outCanonical, hs.outExists, hs.lenFits, hs.opLenFits, hs.issueEmpty,
    hs.busyUnacked, hs.shownBound, hs.spoiledWalks,
    hs.endedStopped, hs.codeZero, hs.sound⟩

/-- The invariant does not speak of the values read nor of the free draws. -/
theorem inv_port {s : State} (hs : s.Inv) (p : Word) (o : Byte) (d : Nat) : ({ s with portData := p, outData := o, draws := d } : State).Inv :=
  ⟨hs.inCapacityLegal, hs.outCapacityLegal, hs.inCanonical, hs.inExists,
    hs.outCanonical, hs.outExists, hs.lenFits, hs.opLenFits, hs.issueEmpty,
    hs.busyUnacked, hs.shownBound, hs.spoiledWalks,
    hs.endedStopped, hs.codeZero, hs.sound⟩

/-- Storing the configuration bits (10_state.md R34) keeps the invariant. -/
theorem inv_configure {s : State} (hs : s.Inv) (wd : Word) : (s.configure wd).Inv :=
  ⟨hs.inCapacityLegal, hs.outCapacityLegal, hs.inCanonical, hs.inExists,
    hs.outCanonical, hs.outExists, hs.lenFits, hs.opLenFits, hs.issueEmpty,
    hs.busyUnacked, hs.shownBound, hs.spoiledWalks,
    hs.endedStopped, hs.codeZero, hs.sound⟩

/-- START (41_decode_dispatch.md R150) keeps the invariant. -/
theorem inv_start {s : State} (hs : s.Inv) : s.start.Inv :=
  ⟨hs.inCapacityLegal, hs.outCapacityLegal, hs.inCanonical, hs.inExists,
    hs.outCanonical, hs.outExists, hs.lenFits, hs.lenFits, hs.issueEmpty,
    fun _ => rfl, fun _ => by simp, (fun h => by cases h),
    (fun h => by cases h), fun _ _ => ⟨rfl, rfl⟩,
    fun _ => ⟨rfl, rfl, rfl, rfl, rfl, rfl, rfl, rfl, rfl, rfl, rfl⟩⟩

/-- Storing INPUT_LEN (10_state.md R39) keeps the invariant. -/
theorem inv_len {s : State} (hs : s.Inv) (len : Word) : ({ s with inputLen := BitVec.ofNat 32 (min len.toNat s.inCapacity) } : State).Inv :=
  ⟨hs.inCapacityLegal, hs.outCapacityLegal, hs.inCanonical, hs.inExists,
    hs.outCanonical, hs.outExists, (by show (BitVec.ofNat 32 (min len.toNat s.inCapacity)).toNat ≤ s.inCapacity; rw [BitVec.toNat_ofNat]; exact Nat.le_trans (Nat.mod_le _ _) (Nat.min_le_right _ _)), hs.opLenFits, hs.issueEmpty,
    hs.busyUnacked, hs.shownBound, hs.spoiledWalks,
    hs.endedStopped, hs.codeZero, hs.sound⟩

/-- A register write (10_state.md R29) keeps the invariant. -/
theorem inv_writePort {s : State} (hs : s.Inv) (off : Byte) (d : Word) : (s.writePort off d).Inv := by
  unfold State.writePort State.writeStart State.writeConfig State.writeLen
  split
  · split <;> split
    · exact hs
    · exact inv_start (inv_configure hs d)
    · exact hs
    · exact inv_configure hs d
  · split
    · split
      · exact hs
      · exact inv_len hs d
    · exact hs

/-- The BLOCK_INDEX shown while BUSY is at most N (10_state.md R49). -/
theorem shownIndex_le (s : State) (h : s.progress ≤ s.blockCount) : s.shownIndex ≤ s.blockCount := by
  unfold State.shownIndex
  split
  · exact h
  · split
    · exact BitVec.le_refl _
    · next h => exact BitVec.not_lt.1 h

/-- A register read keeps the invariant. -/
theorem inv_readPort {s : State} (hs : s.Inv) (off : Byte) : (s.readPort off).Inv := by
  unfold State.readPort
  split
  · exact inv_port hs _ _ _
  · split
    · next h =>
      have hb : s.busy = true := by simp at h; exact h.1
      have h1 := inv_port hs (s.shownIndex.extractLsb' (if off = 0x38#8 then 0 else 32) 32) s.outData (s.draws + 1)
      exact ⟨hs.inCapacityLegal, hs.outCapacityLegal, hs.inCanonical, hs.inExists,
        hs.outCanonical, hs.outExists, hs.lenFits, hs.opLenFits, hs.issueEmpty,
        hs.busyUnacked, fun _ => shownIndex_le s (hs.shownBound hb), hs.spoiledWalks,
        hs.endedStopped, hs.codeZero, hs.sound⟩
    · split
      · exact ⟨hs.inCapacityLegal, hs.outCapacityLegal, hs.inCanonical, hs.inExists,
          hs.outCanonical, hs.outExists, hs.lenFits, hs.opLenFits, hs.issueEmpty,
          (fun h => by show (s.acked || !s.busy) = false; rw [hs.busyUnacked h, show s.busy = true from h]; rfl), hs.shownBound, hs.spoiledWalks,
          hs.endedStopped, hs.codeZero, (by
            intro hc
            have := hs.sound hc
            revert this
            unfold State.phaseSound
            show (match s.seq with | _ => _) → match s.seq with | _ => _
            cases hq : s.seq <;> simp only [] <;> intro h
            · exact ⟨h.1, by show (s.acked || !s.busy) = true; rw [h.2]; rfl⟩
            all_goals exact h)⟩
      · exact inv_port hs _ s.outData s.draws

/-- The sequencer's place is in order while an operation runs. -/
theorem walkSound_of_inv {s : State} (hs : s.Inv) (hb : s.busy = true) : s.walkSound := by
  rcases hspo : s.spoil with _ | _ | _
  · have h := hs.sound hspo
    have hcap := hs.outCapacityLegal
    unfold State.phaseSound at h
    unfold State.walkSound
    rcases busy_iff.1 hb with hq | hq | hq <;> simp only [hq] at h ⊢
    · exact ⟨h.2.2.2.2.2.2.2.2.2.2, h.2.2.2.2.2.2.2.2.2.1⟩
    · exact ⟨h.2.2.2.1, h.2.2.2.2⟩
    · obtain ⟨-, -, himg, ht⟩ := h
      obtain ⟨-, -, -, -, -, hn, hp⟩ := himg
      exact ⟨ht, by omega⟩
  · exact (hs.spoiledWalks hspo).2
  · have := hs.endedStopped hspo; rw [busy_iff] at hb; rcases this with h | h <;> simp [h] at hb

/-- Writing bytes of IN that exist while no operation runs keeps the invariant. -/
theorem inv_write {s : State} (hs : s.Inv) (hb : s.busy = false) (a : Nat) (bs : List Byte) (h : a + bs.length ≤ s.inCapacity) :
    ({ s with inMem := s.inMem.pokeAll (cellsFrom a bs) } : State).Inv :=
  ⟨hs.inCapacityLegal, hs.outCapacityLegal, pokeAll_wf _ hs.inCanonical,
    below_pokeAll _ hs.inExists (fun c hc => Nat.lt_of_lt_of_le (mem_cellsFrom hc).2 h),
    hs.outCanonical, hs.outExists, hs.lenFits, hs.opLenFits, hs.issueEmpty,
    hs.busyUnacked, hs.shownBound, hs.spoiledWalks,
    hs.endedStopped, hs.codeZero, (by
      intro hc
      have := hs.sound hc
      revert this
      rw [Bool.eq_false_iff] at hb
      unfold State.phaseSound
      cases hq : s.seq <;> simp only [] <;> intro h
      · exact h
      · exact absurd (busy_of_seq (.inl hq)) hb
      · exact absurd (busy_of_seq (.inr (.inl hq))) hb
      · exact absurd (busy_of_seq (.inr (.inr hq))) hb
      · exact h
      · exact h)⟩

/-- A host write to bytes of IN that exist lands and keeps the invariant. -/
theorem hostWriteIn_inv {s : State} (hs : s.Inv) (a : Nat) (bs : List Byte) (h : a + bs.length ≤ s.inCapacity) :
    ∃ t, s.hostWriteIn a bs = .next t ∧ t.Inv := by
  refine ⟨_, by simp only [State.hostWriteIn]; rw [if_neg (by omega)], ?_⟩
  have hin := pokeAll_wf (cellsFrom a bs) hs.inCanonical
  have hin' : ∀ x, s.inCapacity ≤ x → (s.inMem.pokeAll (cellsFrom a bs)).peek x = none :=
    below_pokeAll _ hs.inExists (fun c hc => Nat.lt_of_lt_of_le (mem_cellsFrom hc).2 h)
  unfold State.spoilOperation
  split
  · next hack =>
    apply inv_write hs _ a bs h
    by_contra hb
    have := hs.busyUnacked (by simpa using hb)
    rw [show s.acked = true from hack] at this; cases this
  · next hack =>
    split
    · next hb =>
      have hb : s.busy = true := hb
      have hw : s.walkSound := walkSound_of_inv hs hb
      have hne : s.spoil ≠ .ended := fun he => by
        have := hs.endedStopped he; rw [busy_iff] at hb; rcases this with h | h <;> simp [h] at hb
      exact ⟨hs.inCapacityLegal, hs.outCapacityLegal, hin, hin',
        hs.outCanonical, hs.outExists, hs.lenFits, hs.opLenFits, hs.issueEmpty,
        hs.busyUnacked, hs.shownBound, fun _ => ⟨hb, hw⟩,
        (fun h => by cases h), fun _ => hs.codeZero hne, (fun h => by cases h)⟩
    · next hb =>
      have hb : s.busy = false := Bool.eq_false_iff.2 hb
      have hseq : s.seq = .done ∨ s.seq = .error := by
        cases hq : s.seq with
        | idle =>
          exfalso
          rcases hspo : s.spoil with _ | _ | _
          · have := hs.sound hspo; simp only [State.phaseSound, hq] at this; exact hack this.2
          · have := (hs.spoiledWalks hspo).1; rw [hb] at this; cases this
          · have := hs.endedStopped hspo; simp [hq] at this
        | done => exact .inl rfl
        | error => exact .inr rfl
        | parse => rw [busy_of_seq (.inl hq)] at hb; cases hb
        | check => rw [busy_of_seq (.inr (.inl hq))] at hb; cases hb
        | blocks => rw [busy_of_seq (.inr (.inr hq))] at hb; cases hb
      exact ⟨hs.inCapacityLegal, hs.outCapacityLegal, hin, hin',
        forget_wf _ hs.outCanonical, below_forget _ hs.outExists, hs.lenFits, hs.opLenFits, hs.issueEmpty,
        hs.busyUnacked, (fun h => by rw [show s.busy = true from h] at hb; cases hb), (fun h => by cases h),
        fun _ => hseq, (fun h => absurd rfl h), (fun h => by cases h)⟩

/-- The end of a spoiled operation (20_memory.md R78) leaves a sound state. -/
theorem inv_endSpoiled {s : State} (hs : s.Inv) {phase : Phase} (hp : phase = .done ∨ phase = .error) :
    (s.endSpoiled phase).Inv := by
  have hb : ¬ (s.endSpoiled phase).busy = true := by rw [busy_iff]; rcases hp with rfl | rfl <;> simp
  constructor
  case busyUnacked | shownBound => exact fun h => absurd h hb
  all_goals simp only [endSpoiled_inCapacity, endSpoiled_outCapacity, endSpoiled_inMem, endSpoiled_outMem,
    endSpoiled_inputLen, endSpoiled_opLen, endSpoiled_issue, endSpoiled_spoil, endSpoiled_seq]
  case inCapacityLegal => exact hs.inCapacityLegal
  case outCapacityLegal => exact hs.outCapacityLegal
  case inCanonical => exact hs.inCanonical
  case inExists => exact hs.inExists
  case outCanonical => exact forget_wf _ hs.outCanonical
  case outExists => exact below_forget _ hs.outExists
  case lenFits => exact hs.lenFits
  case opLenFits => exact hs.opLenFits
  case issueEmpty => exact hs.issueEmpty
  case endedStopped => exact fun _ => hp
  case spoiledWalks => simp
  case codeZero => simp
  case sound => simp

/-- A visit of a spoiled operation goes on with the sequencer's place in order, or ends the operation: the state it leaves is
sound. -/
theorem inv_spoiledVisit {s : State} (hs : s.Inv) (hsp : s.spoil = .running) : s.spoiledVisit.Inv := by
  obtain ⟨hb, hw⟩ := hs.spoiledWalks hsp
  have hne : s.spoil ≠ .ended := by rw [hsp]; decide
  have hd : ∀ d, ({ s with draws := d } : State).Inv := fun d => inv_port hs s.portData s.outData d
  have hz : s.errorCode = 0#4 ∧ s.errorInfo = 0#32 :=
    hs.codeZero hne (by rw [busy_iff] at hb; rcases hb with h | h | h <;> simp [h])
  rcases spoiledVisit_cases hb with h | ⟨hq, h⟩ | ⟨hq, h | ⟨n, hn, hlt, h⟩⟩ | ⟨hq, ⟨hlast, h⟩ | ⟨hlast, l, ls, h, -⟩⟩ <;> rw [h]
  · exact inv_endSpoiled (hd _) (.inr rfl)
  · simp only [State.walkSound, hq] at hw
    exact ⟨hs.inCapacityLegal, hs.outCapacityLegal, hs.inCanonical, hs.inExists, hs.outCanonical, hs.outExists, hs.lenFits,
      hs.opLenFits, hs.issueEmpty, fun _ => hs.busyUnacked hb, fun _ => hs.shownBound hb, fun _ => ⟨rfl, hw⟩,
      (fun h => absurd h hne), fun _ _ => hz, (fun h => by rw [show s.spoil = .clean from h] at hsp; cases hsp)⟩
  · exact inv_endSpoiled (hd _) (.inl rfl)
  · simp only [State.walkSound, hq] at hw
    have hp : s.progress ≤ n := BitVec.le_trans (hs.shownBound hb) (by rw [hw.2]; exact Nat.zero_le _)
    have hpos : 0 < n.toNat := Nat.pos_of_ne_zero fun h => hn (BitVec.eq_of_toNat_eq (by simpa using h))
    exact ⟨hs.inCapacityLegal, hs.outCapacityLegal, hs.inCanonical, hs.inExists, hs.outCanonical, hs.outExists, hs.lenFits,
      hs.opLenFits, hs.issueEmpty, fun _ => hs.busyUnacked hb, fun _ => hp, fun _ => ⟨rfl, hpos, hlt⟩,
      (fun h => absurd h hne), fun _ _ => hz, (fun h => by rw [show s.spoil = .clean from h] at hsp; cases hsp)⟩
  · exact inv_endSpoiled (hd _) (.inl rfl)
  · simp only [State.walkSound, hq] at hw
    have hlt : (s.blockIndex + 1#64).toNat < s.blockCount.toNat := by
      have : s.blockIndex.toNat + 1 ≠ s.blockCount.toNat := fun h => hlast (BitVec.eq_of_toNat_eq (by
        rw [BitVec.toNat_add, ← h]; simp; omega))
      rw [BitVec.toNat_add]; simp; omega
    exact ⟨hs.inCapacityLegal, hs.outCapacityLegal, hs.inCanonical, hs.inExists, hs.outCanonical, hs.outExists, hs.lenFits,
      hs.opLenFits, hs.issueEmpty, fun _ => hs.busyUnacked hb, fun _ => hs.shownBound hb,
      fun _ => ⟨hb, by simp only [State.walkSound, drew_seq, hq]; exact ⟨hlt, hw.2⟩⟩,
      (fun h => absurd h hne), fun _ _ => hz, (fun h => by rw [show s.spoil = .clean from h] at hsp; cases hsp)⟩

/-- The reset input (70_reset_and_hazards.md R261) leaves a sound state. -/
theorem inv_reset {s : State} (hs : s.Inv) : s.afterReset.Inv :=
  ⟨hs.inCapacityLegal, hs.outCapacityLegal, rfl, fun _ _ => rfl,
    rfl, fun _ _ => rfl, Nat.zero_le _, Nat.zero_le _, rfl,
    (fun h => by cases h), fun _ => by simp [State.afterReset, State.reset], (fun h => by cases h),
    (fun h => by cases h), fun _ _ => ⟨rfl, rfl⟩,
    fun _ => ⟨⟨rfl, rfl, rfl, rfl, rfl, rfl, rfl, rfl, rfl, rfl, rfl⟩, rfl⟩⟩

end Sys2Proof.Machine
end

