-- ==== Sys2Proof/Laws/Visit.lean ====
section
/-! SUPPORT. What the PARSE visit and the CHECK visit do, in closed form, and the pieces of a BLOCK visit. -/

namespace Sys2Proof.Machine

/-- The header registers as the PARSE visit writes them (40_header_parser.md R131). -/
def State.withFields (s : State) : State :=
  { s with
    hdrMagic := s.inWord 0x00
    hdrSize := s.inWord 0x04
    hdrHeight := s.inWord 0x0C
    hdrWidth := s.inWord 0x10
    hdrFourcc := s.inWord 0x54 }

/-- The header registers, the marker and the data offset as the PARSE visit writes them (R131, R134, R135). -/
def State.parsed (s : State) : State :=
  { s.withFields with
    hdrDx10 := s.inWord 0x54 == codeDx10
    dataOffset := if s.inWord 0x54 == codeDx10 then 148#32 else 128#32 }

/-- The block count as the CHECK visit writes it (41_decode_dispatch.md R156). -/
def State.counted (s : State) : State := { s with blockCount := BitVec.ofNat 64 (s.pixels / 16) }

/-! ## `withFields` -/

@[simp] theorem withFields_inCapacity (s : State) : s.withFields.inCapacity = s.inCapacity := by
  dsimp only [State.withFields]
@[simp] theorem withFields_outCapacity (s : State) : s.withFields.outCapacity = s.outCapacity := by
  dsimp only [State.withFields]
@[simp] theorem withFields_ctrlStrict (s : State) : s.withFields.ctrlStrict = s.ctrlStrict := by
  dsimp only [State.withFields]
@[simp] theorem withFields_ctrlTileOrder (s : State) : s.withFields.ctrlTileOrder = s.ctrlTileOrder := by
  dsimp only [State.withFields]
@[simp] theorem withFields_ctrlIe (s : State) : s.withFields.ctrlIe = s.ctrlIe := by dsimp only [State.withFields]
@[simp] theorem withFields_errorCode (s : State) : s.withFields.errorCode = s.errorCode := by dsimp only [State.withFields]
@[simp] theorem withFields_errorInfo (s : State) : s.withFields.errorInfo = s.errorInfo := by dsimp only [State.withFields]
@[simp] theorem withFields_inputLen (s : State) : s.withFields.inputLen = s.inputLen := by dsimp only [State.withFields]
@[simp] theorem withFields_hdrMagic (s : State) : s.withFields.hdrMagic = s.inWord 0x00 := by dsimp only [State.withFields]
@[simp] theorem withFields_hdrSize (s : State) : s.withFields.hdrSize = s.inWord 0x04 := by dsimp only [State.withFields]
@[simp] theorem withFields_hdrHeight (s : State) : s.withFields.hdrHeight = s.inWord 0x0C := by dsimp only [State.withFields]
@[simp] theorem withFields_hdrWidth (s : State) : s.withFields.hdrWidth = s.inWord 0x10 := by dsimp only [State.withFields]
@[simp] theorem withFields_hdrFourcc (s : State) : s.withFields.hdrFourcc = s.inWord 0x54 := by dsimp only [State.withFields]
@[simp] theorem withFields_hdrDx10 (s : State) : s.withFields.hdrDx10 = s.hdrDx10 := by dsimp only [State.withFields]
@[simp] theorem withFields_dataOffset (s : State) : s.withFields.dataOffset = s.dataOffset := by
  dsimp only [State.withFields]
@[simp] theorem withFields_blockCount (s : State) : s.withFields.blockCount = s.blockCount := by
  dsimp only [State.withFields]
@[simp] theorem withFields_blockIndex (s : State) : s.withFields.blockIndex = s.blockIndex := by
  dsimp only [State.withFields]
@[simp] theorem withFields_seq (s : State) : s.withFields.seq = s.seq := by dsimp only [State.withFields]
@[simp] theorem withFields_opStrict (s : State) : s.withFields.opStrict = s.opStrict := by dsimp only [State.withFields]
@[simp] theorem withFields_opOrder (s : State) : s.withFields.opOrder = s.opOrder := by dsimp only [State.withFields]
@[simp] theorem withFields_opLen (s : State) : s.withFields.opLen = s.opLen := by dsimp only [State.withFields]
@[simp] theorem withFields_lane (s : State) : s.withFields.lane = s.lane := by dsimp only [State.withFields]
@[simp] theorem withFields_otherLanes (s : State) : s.withFields.otherLanes = s.otherLanes := by
  dsimp only [State.withFields]
@[simp] theorem withFields_inMem (s : State) : s.withFields.inMem = s.inMem := by dsimp only [State.withFields]
@[simp] theorem withFields_outMem (s : State) : s.withFields.outMem = s.outMem := by dsimp only [State.withFields]
@[simp] theorem withFields_portData (s : State) : s.withFields.portData = s.portData := by dsimp only [State.withFields]
@[simp] theorem withFields_outData (s : State) : s.withFields.outData = s.outData := by dsimp only [State.withFields]
@[simp] theorem withFields_host (s : State) : s.withFields.host = s.host := by dsimp only [State.withFields]
@[simp] theorem withFields_issue (s : State) : s.withFields.issue = s.issue := by dsimp only [State.withFields]
@[simp] theorem withFields_acked (s : State) : s.withFields.acked = s.acked := by dsimp only [State.withFields]
@[simp] theorem withFields_progress (s : State) : s.withFields.progress = s.progress := by dsimp only [State.withFields]
@[simp] theorem withFields_spoil (s : State) : s.withFields.spoil = s.spoil := by dsimp only [State.withFields]
@[simp] theorem withFields_draws (s : State) : s.withFields.draws = s.draws := by dsimp only [State.withFields]
@[simp] theorem withFields_resets (s : State) : s.withFields.resets = s.resets := by dsimp only [State.withFields]
@[simp] theorem withFields_outScrambles (s : State) : s.withFields.outScrambles = s.outScrambles := by
  dsimp only [State.withFields]

/-! ## `parsed` -/

@[simp] theorem parsed_inCapacity (s : State) : s.parsed.inCapacity = s.inCapacity := by
  dsimp only [State.parsed, State.withFields]
@[simp] theorem parsed_outCapacity (s : State) : s.parsed.outCapacity = s.outCapacity := by
  dsimp only [State.parsed, State.withFields]
@[simp] theorem parsed_ctrlStrict (s : State) : s.parsed.ctrlStrict = s.ctrlStrict := by
  dsimp only [State.parsed, State.withFields]
@[simp] theorem parsed_ctrlTileOrder (s : State) : s.parsed.ctrlTileOrder = s.ctrlTileOrder := by
  dsimp only [State.parsed, State.withFields]
@[simp] theorem parsed_ctrlIe (s : State) : s.parsed.ctrlIe = s.ctrlIe := by dsimp only [State.parsed, State.withFields]
@[simp] theorem parsed_errorCode (s : State) : s.parsed.errorCode = s.errorCode := by
  dsimp only [State.parsed, State.withFields]
@[simp] theorem parsed_errorInfo (s : State) : s.parsed.errorInfo = s.errorInfo := by
  dsimp only [State.parsed, State.withFields]
@[simp] theorem parsed_inputLen (s : State) : s.parsed.inputLen = s.inputLen := by
  dsimp only [State.parsed, State.withFields]
@[simp] theorem parsed_hdrMagic (s : State) : s.parsed.hdrMagic = s.inWord 0x00 := by
  dsimp only [State.parsed, State.withFields]
@[simp] theorem parsed_hdrSize (s : State) : s.parsed.hdrSize = s.inWord 0x04 := by
  dsimp only [State.parsed, State.withFields]
@[simp] theorem parsed_hdrHeight (s : State) : s.parsed.hdrHeight = s.inWord 0x0C := by
  dsimp only [State.parsed, State.withFields]
@[simp] theorem parsed_hdrWidth (s : State) : s.parsed.hdrWidth = s.inWord 0x10 := by
  dsimp only [State.parsed, State.withFields]
@[simp] theorem parsed_hdrFourcc (s : State) : s.parsed.hdrFourcc = s.inWord 0x54 := by
  dsimp only [State.parsed, State.withFields]
@[simp] theorem parsed_hdrDx10 (s : State) : s.parsed.hdrDx10 = (s.inWord 0x54 == codeDx10) := by
  dsimp only [State.parsed, State.withFields]
@[simp] theorem parsed_dataOffset (s : State) : s.parsed.dataOffset = if s.inWord 0x54 == codeDx10 then 148#32 else 128#32 := by
  dsimp only [State.parsed, State.withFields]
@[simp] theorem parsed_blockCount (s : State) : s.parsed.blockCount = s.blockCount := by
  dsimp only [State.parsed, State.withFields]
@[simp] theorem parsed_blockIndex (s : State) : s.parsed.blockIndex = s.blockIndex := by
  dsimp only [State.parsed, State.withFields]
@[simp] theorem parsed_seq (s : State) : s.parsed.seq = s.seq := by dsimp only [State.parsed, State.withFields]
@[simp] theorem parsed_opStrict (s : State) : s.parsed.opStrict = s.opStrict := by
  dsimp only [State.parsed, State.withFields]
@[simp] theorem parsed_opOrder (s : State) : s.parsed.opOrder = s.opOrder := by dsimp only [State.parsed, State.withFields]
@[simp] theorem parsed_opLen (s : State) : s.parsed.opLen = s.opLen := by dsimp only [State.parsed, State.withFields]
@[simp] theorem parsed_lane (s : State) : s.parsed.lane = s.lane := by dsimp only [State.parsed, State.withFields]
@[simp] theorem parsed_otherLanes (s : State) : s.parsed.otherLanes = s.otherLanes := by
  dsimp only [State.parsed, State.withFields]
@[simp] theorem parsed_inMem (s : State) : s.parsed.inMem = s.inMem := by dsimp only [State.parsed, State.withFields]
@[simp] theorem parsed_outMem (s : State) : s.parsed.outMem = s.outMem := by dsimp only [State.parsed, State.withFields]
@[simp] theorem parsed_portData (s : State) : s.parsed.portData = s.portData := by
  dsimp only [State.parsed, State.withFields]
@[simp] theorem parsed_outData (s : State) : s.parsed.outData = s.outData := by dsimp only [State.parsed, State.withFields]
@[simp] theorem parsed_host (s : State) : s.parsed.host = s.host := by dsimp only [State.parsed, State.withFields]
@[simp] theorem parsed_issue (s : State) : s.parsed.issue = s.issue := by dsimp only [State.parsed, State.withFields]
@[simp] theorem parsed_acked (s : State) : s.parsed.acked = s.acked := by dsimp only [State.parsed, State.withFields]
@[simp] theorem parsed_progress (s : State) : s.parsed.progress = s.progress := by
  dsimp only [State.parsed, State.withFields]
@[simp] theorem parsed_spoil (s : State) : s.parsed.spoil = s.spoil := by dsimp only [State.parsed, State.withFields]
@[simp] theorem parsed_draws (s : State) : s.parsed.draws = s.draws := by dsimp only [State.parsed, State.withFields]
@[simp] theorem parsed_resets (s : State) : s.parsed.resets = s.resets := by dsimp only [State.parsed, State.withFields]
@[simp] theorem parsed_outScrambles (s : State) : s.parsed.outScrambles = s.outScrambles := by
  dsimp only [State.parsed, State.withFields]

/-! ## `counted` -/

@[simp] theorem counted_inCapacity (s : State) : s.counted.inCapacity = s.inCapacity := by dsimp only [State.counted]
@[simp] theorem counted_outCapacity (s : State) : s.counted.outCapacity = s.outCapacity := by dsimp only [State.counted]
@[simp] theorem counted_ctrlStrict (s : State) : s.counted.ctrlStrict = s.ctrlStrict := by dsimp only [State.counted]
@[simp] theorem counted_ctrlTileOrder (s : State) : s.counted.ctrlTileOrder = s.ctrlTileOrder := by
  dsimp only [State.counted]
@[simp] theorem counted_ctrlIe (s : State) : s.counted.ctrlIe = s.ctrlIe := by dsimp only [State.counted]
@[simp] theorem counted_errorCode (s : State) : s.counted.errorCode = s.errorCode := by dsimp only [State.counted]
@[simp] theorem counted_errorInfo (s : State) : s.counted.errorInfo = s.errorInfo := by dsimp only [State.counted]
@[simp] theorem counted_inputLen (s : State) : s.counted.inputLen = s.inputLen := by dsimp only [State.counted]
@[simp] theorem counted_hdrMagic (s : State) : s.counted.hdrMagic = s.hdrMagic := by dsimp only [State.counted]
@[simp] theorem counted_hdrSize (s : State) : s.counted.hdrSize = s.hdrSize := by dsimp only [State.counted]
@[simp] theorem counted_hdrHeight (s : State) : s.counted.hdrHeight = s.hdrHeight := by dsimp only [State.counted]
@[simp] theorem counted_hdrWidth (s : State) : s.counted.hdrWidth = s.hdrWidth := by dsimp only [State.counted]
@[simp] theorem counted_hdrFourcc (s : State) : s.counted.hdrFourcc = s.hdrFourcc := by dsimp only [State.counted]
@[simp] theorem counted_hdrDx10 (s : State) : s.counted.hdrDx10 = s.hdrDx10 := by dsimp only [State.counted]
@[simp] theorem counted_dataOffset (s : State) : s.counted.dataOffset = s.dataOffset := by dsimp only [State.counted]
@[simp] theorem counted_blockCount (s : State) : s.counted.blockCount = BitVec.ofNat 64 (s.pixels / 16) := by
  dsimp only [State.counted]
@[simp] theorem counted_blockIndex (s : State) : s.counted.blockIndex = s.blockIndex := by dsimp only [State.counted]
@[simp] theorem counted_seq (s : State) : s.counted.seq = s.seq := by dsimp only [State.counted]
@[simp] theorem counted_opStrict (s : State) : s.counted.opStrict = s.opStrict := by dsimp only [State.counted]
@[simp] theorem counted_opOrder (s : State) : s.counted.opOrder = s.opOrder := by dsimp only [State.counted]
@[simp] theorem counted_opLen (s : State) : s.counted.opLen = s.opLen := by dsimp only [State.counted]
@[simp] theorem counted_lane (s : State) : s.counted.lane = s.lane := by dsimp only [State.counted]
@[simp] theorem counted_otherLanes (s : State) : s.counted.otherLanes = s.otherLanes := by dsimp only [State.counted]
@[simp] theorem counted_inMem (s : State) : s.counted.inMem = s.inMem := by dsimp only [State.counted]
@[simp] theorem counted_outMem (s : State) : s.counted.outMem = s.outMem := by dsimp only [State.counted]
@[simp] theorem counted_portData (s : State) : s.counted.portData = s.portData := by dsimp only [State.counted]
@[simp] theorem counted_outData (s : State) : s.counted.outData = s.outData := by dsimp only [State.counted]
@[simp] theorem counted_host (s : State) : s.counted.host = s.host := by dsimp only [State.counted]
@[simp] theorem counted_issue (s : State) : s.counted.issue = s.issue := by dsimp only [State.counted]
@[simp] theorem counted_acked (s : State) : s.counted.acked = s.acked := by dsimp only [State.counted]
@[simp] theorem counted_progress (s : State) : s.counted.progress = s.progress := by dsimp only [State.counted]
@[simp] theorem counted_spoil (s : State) : s.counted.spoil = s.spoil := by dsimp only [State.counted]
@[simp] theorem counted_draws (s : State) : s.counted.draws = s.draws := by dsimp only [State.counted]
@[simp] theorem counted_resets (s : State) : s.counted.resets = s.resets := by dsimp only [State.counted]
@[simp] theorem counted_outScrambles (s : State) : s.counted.outScrambles = s.outScrambles := by dsimp only [State.counted]
@[simp] theorem withFields_inByte (s : State) : s.withFields.inByte = s.inByte := by
  funext a; simp only [State.inByte, withFields_inMem, withFields_resets]
@[simp] theorem withFields_inWord (s : State) : s.withFields.inWord = s.inWord := by
  funext a; simp only [State.inWord, State.inBytes, withFields_inByte]
@[simp] theorem parsed_inByte (s : State) : s.parsed.inByte = s.inByte := by
  funext a; simp only [State.inByte, parsed_inMem, parsed_resets]
@[simp] theorem parsed_inWord (s : State) : s.parsed.inWord = s.inWord := by
  funext a; simp only [State.inWord, State.inBytes, parsed_inByte]
@[simp] theorem counted_inByte (s : State) : s.counted.inByte = s.inByte := by
  funext a; simp only [State.inByte, counted_inMem, counted_resets]
@[simp] theorem counted_inWord (s : State) : s.counted.inWord = s.inWord := by
  funext a; simp only [State.inWord, State.inBytes, counted_inByte]
@[simp] theorem counted_pixels (s : State) : s.counted.pixels = s.pixels := by
  simp only [State.pixels, State.width, State.height, counted_hdrWidth, counted_hdrHeight]

/-! ## The PARSE and the CHECK visit -/

/-- The state that a PARSE visit answers. -/
def State.afterParse (s : State) : State :=
  if s.opLen.toNat < 128 then s.raise .truncatedInput s.opLen
  else if (s.opStrict && (s.inWord 0x00 != codeDds || s.inWord 0x04 != 124#32)) = true then
    s.parsed.raise .malformedHeader (failedBits (s.inWord 0x00 != codeDds) (s.inWord 0x04 != 124#32))
  else s.parsed.setSeq .check

/-- The state that a CHECK visit answers. -/
def State.afterCheck (s : State) : State :=
  if s.inWord 0x54 ≠ codeBc4u then s.raise .unsupportedFormat s.hdrFourcc
  else if (s.width % 4 != 0 || s.height % 4 != 0) = true then
    s.raise .blockAlignmentError (failedBits (s.width % 4 != 0) (s.height % 4 != 0))
  else if s.outCapacity < s.pixels then s.counted.raise .capacityExceeded 0#32
  else if s.counted.blockCount = 0#64 then s.counted.finish .done
  else { s.counted.setSeq .blocks with blockIndex := 0#64 }

theorem exec_hpReadFields {s : State} (h : 0x58 ≤ s.inCapacity) : exec .hpReadFields s = .next s.withFields := by
  simp only [exec, execHpReadFields, State.readingIn]; rw [if_neg (by omega)]; rfl

theorem exec_hpDx10Detect {s : State} (h : 0x58 ≤ s.inCapacity) :
    exec .hpDx10Detect s = .next { s with hdrDx10 := s.inWord 0x54 == codeDx10 } := by
  simp only [exec, execHpDx10Detect, State.readingIn]; rw [if_neg (by omega)]

theorem exec_dsFormatCheck {s : State} (h : 0x58 ≤ s.inCapacity) : exec .dsFormatCheck s =
    if s.inWord 0x54 = codeBc4u then .next s else .next (s.raise .unsupportedFormat s.hdrFourcc) := by
  simp only [exec, execDsFormatCheck, State.readingIn]; rw [if_neg (by omega)]

/-- The PARSE visit. -/
theorem visit_parse {s : State} (hq : s.seq = .parse) (hc : 0x58 ≤ s.inCapacity) :
    decoderVisit s = .next s.afterParse := by
  have hv : decoderVisit s = runOps .parse parseOps s := by
    unfold decoderVisit
    rw [enterVisit_other (by simp [hq]), hq, phaseOps]
  rw [hv]
  unfold State.afterParse parseOps
  by_cases hl : s.opLen.toNat < 128
  · rw [if_pos hl, runOps_leave (t := s.raise .truncatedInput s.opLen) (by simp [exec, execHpLengthCheck, hl]) (by simp)]
  · rw [if_neg hl, runOps_next (t := s) (by simp [exec, execHpLengthCheck, hl]) hq, runOps_next (exec_hpReadFields hc) hq]
    rw [runOps_next (exec_hpDx10Detect (s := s.withFields) hc) hq]
    rw [runOps_next (t := s.parsed) rfl hq]
    by_cases hb : (s.opStrict && (s.inWord 0x00 != codeDds || s.inWord 0x04 != 124#32)) = true
    · rw [if_pos hb, runOps_leave (t := s.parsed.raise .malformedHeader
        (failedBits (s.inWord 0x00 != codeDds) (s.inWord 0x04 != 124#32))) ?_ (by simp)]
      show (if _ then _ else _) = _
      exact if_pos hb
    · rw [if_neg hb, runOps_next (t := s.parsed) ?_ hq, runOps_nil_parse]
      show (if _ then _ else _) = _
      exact if_neg hb

/-- The CHECK visit. -/
theorem visit_check {s : State} (hq : s.seq = .check) (hc : 0x58 ≤ s.inCapacity) :
    decoderVisit s = .next s.afterCheck := by
  have hv : decoderVisit s = runOps .check checkOps s := by
    unfold decoderVisit
    rw [enterVisit_other (by simp [hq]), hq, phaseOps]
  rw [hv]
  unfold State.afterCheck checkOps
  by_cases hf : s.inWord 0x54 = codeBc4u
  · rw [if_neg (not_not.2 hf), runOps_next (t := s) (by rw [exec_dsFormatCheck hc, if_pos hf]) hq]
    by_cases ha : (s.width % 4 != 0 || s.height % 4 != 0) = true
    · rw [if_pos ha, runOps_leave (t := s.raise _ _) ?_ (by simp)]
      simp only [exec, execDsAlignCheck, ha, if_true]
    · rw [if_neg ha, runOps_next (t := s) (by simp only [exec, execDsAlignCheck]; rw [if_neg ha]) hq]
      rw [runOps_next (t := s.counted) rfl hq]
      by_cases hp : s.outCapacity < s.pixels
      · rw [if_pos hp, runOps_leave (t := s.counted.raise _ _) ?_ (by simp)]
        show (if _ then _ else _) = _
        exact if_pos hp
      · rw [if_neg hp]
        by_cases hz : s.counted.blockCount = 0#64
        · rw [if_pos hz, runOps_leave (t := s.counted.finish .done) ?_ (by simp)]
          show (if _ then _ else if _ then _ else _) = _
          exact (if_neg hp).trans (if_pos hz)
        · rw [if_neg hz, runOps_leave (t := { s.counted.setSeq .blocks with blockIndex := 0#64 }) ?_ (by simp)]
          show (if _ then _ else if _ then _ else _) = _
          exact (if_neg hp).trans (if_neg hz)
  · rw [if_pos hf, runOps_leave (by rw [exec_dsFormatCheck hc, if_neg hf]) (by simp)]

/-- A BLOCK visit is the block's fifteen operations on the next lane. -/
theorem visit_block {s : State} (hq : s.seq = .blocks) : decoderVisit s = runOps .blocks blockOps s.nextLane := by
  unfold decoderVisit
  rw [enterVisit_blocks hq, hq, phaseOps]

/-- The order of a block's operations (R151). -/
theorem blockOps_eq : blockOps = .sqBlockFetch :: (decompressOps ++ [.taTilePlace, .taTileWrite, .sqAdvance]) := rfl

/-- Operations that keep the phase, run in a visit, are those operations run one after another. -/
theorem runOps_append {p : Phase} {is js : List Instr} {s t : State} (hp : s.seq = p)
    (hk : ∀ i ∈ is, ∀ u v, exec i u = .next v → v.seq = u.seq) (h : execAll is s = .next t) :
    runOps p (is ++ js) s = runOps p js t := by
  induction is generalizing s with
  | nil => cases h; rfl
  | cons i is ih =>
    simp only [execAll] at h
    split at h
    · next u hu =>
      have hs := hk i (by simp) _ _ hu
      rw [List.cons_append, runOps_next hu (hs.trans hp)]
      exact ih (hs.trans hp) (fun j hj => hk j (by simp [hj])) h
    · cases h
    · cases h

/-- A decompression operation writes latches of the working lane only (42_block_decompress.md R195). -/
theorem exec_decompress {i : Instr} (hi : i ∈ decompressOps) {s t : State} (h : exec i s = .next t) :
    t = { s with lane := t.lane } := by
  simp only [decompressOps, List.cons_append, List.nil_append, List.mem_cons, List.not_mem_nil, or_false] at hi
  rcases hi with rfl | rfl | rfl | rfl | rfl | rfl | rfl | rfl | rfl | rfl | rfl
  case inr.inr.inr.inr.inr.inr.inl => simp only [exec, execBdPal6] at h; split at h <;> cases h <;> rfl
  case inr.inr.inr.inr.inr.inr.inr.inl => simp only [exec, execBdPal4] at h; split at h <;> cases h <;> rfl
  case inr.inr.inr.inr.inr.inr.inr.inr.inl => simp only [exec, execBdPal4Const] at h; split at h <;> cases h <;> rfl
  all_goals (cases h; rfl)

end Sys2Proof.Machine
end

