-- ==== Sys2Proof/Tests/Slice0.lean ====
section
/-! SUPPORT. Tests: ill-formed operations are refused, words written out from the spec decode, one step or one operation on a
small state gives the value the spec prints, and every statement with hypotheses has a state that meets them. Expected
values come from the examples of spec/40 to spec/42, the tables of spec/95_test_vectors.md, and hand calculation. -/

namespace Sys2Proof.Tests
open Sys2Proof Sys2Proof.Machine

/-! ## Well-formedness: each check refuses a term -/

theorem test_wf_fmtOther_refuses_bc4u : (Instr.fmtOther 0x55344342#32).wellFormed = false := by decide
theorem test_wf_fmtOther_refuses_dx10 : (Instr.fmtOther 0x30315844#32).wellFormed = false := by decide
theorem test_wf_fmtOther_takes_bc1u : (Instr.fmtOther 0x55314342#32).wellFormed = true := by decide
theorem test_wf_blkMode6_refuses_equal : (Instr.blkMode6 128#8 128#8 0#48).wellFormed = false := by decide
theorem test_wf_blkMode6_refuses_smaller : (Instr.blkMode6 100#8 200#8 0#48).wellFormed = false := by decide
theorem test_wf_blkMode4_refuses_greater : (Instr.blkMode4 200#8 100#8 0#48).wellFormed = false := by decide
theorem test_wf_cmdStart_refuses_bit0_clear : (Instr.cmdStart 0xE#32).wellFormed = false := by decide
theorem test_wf_cmdConfig_refuses_bit0_set : (Instr.cmdConfig 1#32).wellFormed = false := by decide
theorem test_wf_regWrite_refuses_ctrl : (Instr.regWrite 0x00#8 0#32).wellFormed = false := by decide
theorem test_wf_regWrite_refuses_inputLen : (Instr.regWrite 0x10#8 0#32).wellFormed = false := by decide
theorem test_wf_regWrite_refuses_misaligned : (Instr.regWrite 0x1E#8 0#32).wellFormed = false := by decide
theorem test_wf_regRead_refuses_misaligned : (Instr.regRead 0x05#8).wellFormed = false := by decide

/-! ## Decoding: bytes and bits written out from spec/30_encoding.md -/

/-- "BC4U", "DX10" and "BC1U" as characters in file order (R11, R93). -/
theorem test_decode_fourcc :
    (decodeBytes .fourcc [0x42#8, 0x43#8, 0x34#8, 0x55#8]).toOption = some .fmtBc4u ∧
    (decodeBytes .fourcc [0x44#8, 0x58#8, 0x31#8, 0x30#8]).toOption = some .fmtDx10 ∧
    (decodeBytes .fourcc [0x42#8, 0x43#8, 0x31#8, 0x55#8]).toOption = some (.fmtOther 0x55314342#32) := by decide

/-- Two blocks: references 200, 100 and 100, 200, then the index bytes (R94, R96). -/
theorem test_decode_block :
    (decodeBytes .block [0xC8#8, 0x64#8, 0x88#8, 0xC6#8, 0xFA#8, 0x77#8, 0x39#8, 0x05#8]).toOption =
      some (.blkMode6 200#8 100#8 0x053977FAC688#48) ∧
    (decodeBytes .block [0x64#8, 0xC8#8, 0x88#8, 0xC6#8, 0xFA#8, 0x77#8, 0x39#8, 0x05#8]).toOption =
      some (.blkMode4 100#8 200#8 0x053977FAC688#48) ∧
    (decodeBytes .block [0x80#8, 0x80#8, 0#8, 0#8, 0#8, 0#8, 0#8, 0#8]).toOption = some (.blkMode4 128#8 128#8 0#48) := by
  decide

/-- All sixteen index rows in one lane (R97). -/
theorem test_decode_indices :
    ((List.range 8).map fun k => (decode (.idx3 true 9 (BitVec.ofNat 3 k))).toOption) =
      [some (.sel6E0 9), some (.sel6E1 9), some (.sel6E2 9), some (.sel6E3 9), some (.sel6E4 9), some (.sel6E5 9),
       some (.sel6E6 9), some (.sel6E7 9)] ∧
    ((List.range 8).map fun k => (decode (.idx3 false 9 (BitVec.ofNat 3 k))).toOption) =
      [some (.sel4E0 9), some (.sel4E1 9), some (.sel4E2 9), some (.sel4E3 9), some (.sel4E4 9), some (.sel4E5 9),
       some (.sel4E6 9), some (.sel4E7 9)] := by decide

/-- `{rw, off, data}` written bit by bit (R101): START, CONFIG, SETLEN, a write of HDR_WIDTH, a read of STATUS. -/
theorem test_decode_access :
    (decode (.regacc (0b1#1 ++ 0b00000000#8 ++ 0b00000000000000000000000000000001#32))).toOption = some (.cmdStart 1#32) ∧
    (decode (.regacc (0b1#1 ++ 0b00000000#8 ++ 0b00000000000000000000000000001110#32))).toOption = some (.cmdConfig 14#32) ∧
    (decode (.regacc (0b1#1 ++ 0b00010000#8 ++ 0b00000000000000000000000010001000#32))).toOption = some (.cmdSetlen 136#32) ∧
    (decode (.regacc (0b1#1 ++ 0b00011100#8 ++ 0b00000000000000000000000000001000#32))).toOption =
      some (.regWrite 0x1C#8 8#32) ∧
    (decode (.regacc (0b0#1 ++ 0b00000100#8 ++ 0b00000000000000000000000000000000#32))).toOption = some (.regRead 4#8) := by
  decide

/-- The phases' orders (41_decode_dispatch.md R151), each by its phase code and place. -/
theorem test_decode_phases :
    ((List.range 5).map fun k => (decode (.seq 1#3 k)).toOption) =
      [some .hpLengthCheck, some .hpReadFields, some .hpDx10Detect, some .hpDataOffset, some .hpStrictCheck] ∧
    ((List.range 4).map fun k => (decode (.seq 2#3 k)).toOption) =
      [some .dsFormatCheck, some .dsAlignCheck, some .dsBlockCount, some .dsCapacityCheck] ∧
    ((List.range 15).map fun k => (decode (.seq 3#3 k)).toOption) =
      [some .sqBlockFetch, some .bdRefUnpack, some .bdIdxAssemble, some .bdIdxSplit, some .bdPixelOrder, some .bdModeSelect,
       some .bdPalEndpoints, some .bdPal6] ++
      [some .bdPal4, some .bdPal4Const, some .bdSelect, some .bdReshape, some .taTilePlace, some .taTileWrite,
       some .sqAdvance] := by decide

/-- What is no operation is refused by name: a phase without operations, a reserved phase, a place past the last, a read with
data, a misaligned offset, bits above the width, a wrong length. -/
theorem test_decode_refuses :
    ((match decode (.seq 4#3 0) with | .error e => some e | .ok _ => none) = some .noOperationInPhase) ∧
    ((match decode (.seq 6#3 0) with | .error e => some e | .ok _ => none) = some .phaseReserved) ∧
    ((match decode (.seq 1#3 5) with | .error e => some e | .ok _ => none) = some .placeOutOfRange) ∧
    ((match decode (.regacc (0#1 ++ 4#8 ++ 1#32)) with | .error e => some e | .ok _ => none) = some .readWithData) ∧
    ((match decode (.regacc (0#1 ++ 6#8 ++ 0#32)) with | .error e => some e | .ok _ => none) = some .portMisaligned) ∧
    ((match decodeBytes (.idx3 true 0) [8#8] with | .error e => some e | .ok _ => none) = some .tooWide) ∧
    ((match decodeBytes .fourcc [0#8] with | .error e => some e | .ok _ => none) = some .wrongLength) := by decide

/-! ## Small states -/

/-- A block of 256 bytes of IN and 64 of OUT. -/
def bare : State := { State.reset with inCapacity := 256, outCapacity := 64 }

/-- A DDS header (30_encoding.md R90) of this size and code, with "DDS " and 124. -/
def header (w h : Nat) (code : Word) : List Byte :=
  leBytes 4 0x20534444 ++ leBytes 4 124 ++ leBytes 4 0 ++ leBytes 4 h ++ leBytes 4 w ++ List.replicate 64 0#8 ++
    leBytes 4 code.toNat ++ List.replicate 40 0#8

/-- `bare` with a file in IN and its length in INPUT_LEN. -/
def withFile (file : List Byte) : State :=
  { bare with
    inMem := bare.inMem.pokeAll (cellsFrom 0 file)
    inputLen := BitVec.ofNat 32 (min (BitVec.ofNat 32 file.length).toNat 256) }

/-- An operation started on a file, with a CTRL word. -/
def started (file : List Byte) (wd : Word) : State := ((withFile file).configure wd).start

/-- An operation started with L = 0. -/
def startedEmpty (wd : Word) : State := (bare.configure wd).start

/-- A field of what an operation answers; none if it stops. -/
def field {α : Type} (f : State → α) : Result → Option α
  | .next t => some (f t)
  | .fault _ => none
  | .refused _ => none

/-- The state an operation answers. -/
def answered (s : State) : Result → State
  | .next t => t
  | .fault _ => s
  | .refused _ => s

/-! ## The selections (spec/30_encoding.md R93, R96, R97) -/

theorem test_fmtBc4u : field (fun t => (t.hdrDx10, t.dataOffset, t.seq)) (exec .fmtBc4u bare) = some (false, 128#32, .idle) := by
  decide

/-- K17: UnsupportedFormat, INFO 0x30315844, DATA_OFFSET 148. -/
theorem test_fmtDx10 : field (fun t => (t.hdrDx10, t.dataOffset, t.errorCode, t.errorInfo, t.seq)) (exec .fmtDx10 bare) =
    some (true, 148#32, 4#4, 0x30315844#32, .error) := by decide

/-- K11: UnsupportedFormat, INFO 0x55314342. -/
theorem test_fmtOther : field (fun t => (t.hdrDx10, t.dataOffset, t.errorCode, t.errorInfo, t.seq))
    (exec (.fmtOther 0x55314342#32) bare) = some (false, 128#32, 4#4, 0x55314342#32, .error) := by decide

/-- The palette of (200, 100) (42_block_decompress.md R190). -/
theorem test_blkMode6 : field (fun t => (t.lane.mode, t.lane.pal)) (exec (.blkMode6 200#8 100#8 0#48) bare) =
    some (true, #v[200#8, 100#8, 185#8, 171#8, 157#8, 142#8, 128#8, 114#8]) := by decide

/-- The palette of (100, 200) (R192). -/
theorem test_blkMode4 : field (fun t => (t.lane.mode, t.lane.pal)) (exec (.blkMode4 100#8 200#8 0#48) bare) =
    some (false, #v[100#8, 200#8, 120#8, 140#8, 160#8, 180#8, 0#8, 255#8]) := by decide

/-- Every entry of the 6-value mode for (200, 100). -/
theorem test_sel6 :
    ([Instr.sel6E0 5, .sel6E1 5, .sel6E2 5, .sel6E3 5, .sel6E4 5, .sel6E5 5, .sel6E6 5, .sel6E7 5].map fun i =>
      field (fun t => t.lane.pix[5]) (exec i { bare with lane.a0 := 200#8, lane.a1 := 100#8 })) =
    [some 200#8, some 100#8, some 185#8, some 171#8, some 157#8, some 142#8, some 128#8, some 114#8] := by decide

/-- Every entry of the 4-value mode for (100, 200). -/
theorem test_sel4 :
    ([Instr.sel4E0 15, .sel4E1 15, .sel4E2 15, .sel4E3 15, .sel4E4 15, .sel4E5 15, .sel4E6 15, .sel4E7 15].map fun i =>
      field (fun t => t.lane.pix[15]) (exec i { bare with lane.a0 := 100#8, lane.a1 := 200#8 })) =
    [some 100#8, some 200#8, some 120#8, some 140#8, some 160#8, some 180#8, some 0#8, some 255#8] := by decide

/-! ## The register port (spec/10_state.md) -/

/-- R150's example: CTRL = 1 starts with STRICT = 0, COLUMN_MAJOR, IE = 0. -/
theorem test_cmdStart : field (fun t => (t.seq, t.opStrict, t.opOrder, t.opLen, t.ctrlIe))
    (exec (.cmdStart 1#32) { bare with inputLen := 136#32 }) =
    some (.parse, false, .columnMajor, 136#32, false) := by decide

/-- START while BUSY is ignored with its configuration bits (R29). -/
theorem test_cmdStart_busy : field (fun t => (t.seq, t.ctrlStrict)) (exec (.cmdStart 0xF#32) { bare with seq := .check }) =
    some (.check, false) := by decide

theorem test_cmdConfig : field (fun t => (t.ctrlStrict, t.ctrlTileOrder, t.ctrlIe, t.portRead 0#8))
    (exec (.cmdConfig 0xFFFFFFFC#32) bare) = some (false, .rowMajor, true, 0xC#32) := by decide

/-- `min(v, IN_CAPACITY)` (R39). -/
theorem test_cmdSetlen : field (fun t => t.inputLen) (exec (.cmdSetlen 136#32) bare) = some 136#32 ∧
    field (fun t => t.inputLen) (exec (.cmdSetlen 0xFFFFFFFF#32) bare) = some 256#32 := by decide

theorem test_regWrite_ignored : field (fun t => decide (t = bare)) (exec (.regWrite 0x1C#8 7#32) bare) = some true := by decide

/-- STATUS in ERROR, and BLOCK_COUNT_HI. -/
theorem test_regRead :
    field (fun t => t.portData) (exec (.regRead 0x04#8) { bare with seq := .error }) = some 3#32 ∧
    field (fun t => t.portData) (exec (.regRead 0x34#8) { bare with blockCount := 0x0123456789ABCDEF#64 }) =
      some 0x01234567#32 := by decide

/-! ## The header parser (spec/40_header_parser.md) -/

/-- R130's example. -/
theorem test_hpLengthCheck :
    field (fun t => (t.seq, t.errorCode, t.errorInfo)) (exec .hpLengthCheck { bare with opLen := 64#32 }) =
      some (.error, 2#4, 64#32) ∧
    field (fun t => t.errorCode) (exec .hpLengthCheck { bare with opLen := 128#32 }) = some 0#4 := by decide

/-- R131's example: H = 8, W = 16. -/
theorem test_hpReadFields :
    field (fun t => (t.hdrMagic, t.hdrSize, t.hdrHeight, t.hdrWidth, t.hdrFourcc))
      (exec .hpReadFields (withFile (header 16 8 codeBc4u))) =
    some (0x20534444#32, 124#32, 8#32, 16#32, 0x55344342#32) := by decide

theorem test_hpDx10Detect :
    field (fun t => t.hdrDx10) (exec .hpDx10Detect (withFile (header 4 4 0x30315844#32))) = some true ∧
    field (fun t => t.hdrDx10) (exec .hpDx10Detect (withFile (header 4 4 0x31315844#32))) = some false := by decide

theorem test_hpDataOffset :
    field (fun t => t.dataOffset) (exec .hpDataOffset { bare with hdrDx10 := true }) = some 148#32 ∧
    field (fun t => t.dataOffset) (exec .hpDataOffset bare) = some 128#32 := by decide

/-- R137's example: size 125 gives INFO 2. -/
theorem test_hpStrictCheck :
    field (fun t => (t.errorCode, t.errorInfo))
      (exec .hpStrictCheck { bare with opStrict := true, hdrMagic := codeDds, hdrSize := 125#32 }) = some (3#4, 2#32) ∧
    field (fun t => t.errorCode) (exec .hpStrictCheck bare) = some 0#4 := by decide

/-! ## The checks (spec/41_decode_dispatch.md) -/

/-- K16: a code of four zero bytes gives INFO 0. -/
theorem test_dsFormatCheck :
    field (fun t => (t.errorCode, t.errorInfo)) (exec .dsFormatCheck (withFile (header 4 4 0#32))) = some (4#4, 0#32) ∧
    field (fun t => t.errorCode) (exec .dsFormatCheck (withFile (header 4 4 codeBc4u))) = some 0#4 := by decide

/-- K1, K2, K3. -/
theorem test_dsAlignCheck :
    field (fun t => (t.errorCode, t.errorInfo)) (exec .dsAlignCheck { bare with hdrWidth := 6#32, hdrHeight := 8#32 }) =
      some (5#4, 1#32) ∧
    field (fun t => t.errorInfo) (exec .dsAlignCheck { bare with hdrWidth := 8#32, hdrHeight := 6#32 }) = some 2#32 ∧
    field (fun t => t.errorInfo) (exec .dsAlignCheck { bare with hdrWidth := 5#32, hdrHeight := 7#32 }) = some 3#32 := by
  decide

/-- K6, and the greatest product: (2^32 - 4)^2 / 16 = (2^30 - 1)^2. -/
theorem test_dsBlockCount :
    field (fun t => t.blockCount) (exec .dsBlockCount { bare with hdrWidth := 128#32, hdrHeight := 128#32 }) =
      some 1024#64 ∧
    field (fun t => t.blockCount.toNat)
      (exec .dsBlockCount { bare with hdrWidth := 0xFFFFFFFC#32, hdrHeight := 0xFFFFFFFC#32 }) =
      some 1152921502459363329 := by decide

/-- K6, K4. -/
theorem test_dsCapacityCheck :
    field (fun t => (t.errorCode, t.errorInfo, t.blockCount))
      (exec .dsCapacityCheck { bare with hdrWidth := 128#32, hdrHeight := 128#32, blockCount := 1024#64 }) =
      some (7#4, 0#32, 1024#64) ∧
    field (fun t => t.seq) (exec .dsCapacityCheck { bare with hdrHeight := 16#32 }) = some .done := by decide

/-! ## Blocks and tiles (spec/41_decode_dispatch.md) -/

/-- K8: the third block of a file of 150 bytes. -/
theorem test_sqBlockFetch_short :
    field (fun t => (t.errorCode, t.errorInfo, t.blockIndex))
      (exec .sqBlockFetch { bare with opLen := 150#32, dataOffset := 128#32, blockIndex := 2#64 }) =
    some (6#4, 2#32, 2#64) := by decide

theorem test_sqBlockFetch :
    field (fun t => t.lane.blk)
      (exec .sqBlockFetch { withFile [9#8, 0x10#8, 0x20#8, 1#8, 0x23#8, 0x45#8, 0x67#8, 0x89#8, 0xAB#8] with
        opLen := 9#32, dataOffset := 1#32 }) =
    some #v[0x10#8, 0x20#8, 1#8, 0x23#8, 0x45#8, 0x67#8, 0x89#8, 0xAB#8] := by decide

/-- R160's example: W = H = 8, t = 1 and t = 2 in both orders. -/
theorem test_taTilePlace :
    field (fun t => (t.lane.placeRow, t.lane.placeCol))
      (exec .taTilePlace { bare with hdrWidth := 8#32, hdrHeight := 8#32, blockIndex := 1#64 }) = some (1, 0) ∧
    field (fun t => (t.lane.placeRow, t.lane.placeCol))
      (exec .taTilePlace { bare with hdrWidth := 8#32, hdrHeight := 8#32, blockIndex := 1#64, opOrder := .rowMajor }) =
      some (0, 1) := by decide

/-- R161's example: W = 8, place (1, 0): TILE[0][0] goes to 32, TILE[3][3] to 59. -/
theorem test_taTileWrite :
    field (fun t => (t.outMem.peek 32, t.outMem.peek 59, t.outMem.peek 31, t.outMem.peek 36))
      (exec .taTileWrite { bare with
        hdrWidth := 8#32, lane.placeRow := 1, lane.tile := tab4 fun y => tab4 fun x => BitVec.ofNat 8 (16 * y.val + x.val) }) = some (some 0#8, some 0x33#8, none, none) := by decide

/-- R163's example: N = 4. -/
theorem test_sqAdvance :
    field (fun t => (t.blockIndex, t.seq)) (exec .sqAdvance { bare with seq := .blocks, blockIndex := 3#64, blockCount := 4#64 }) =
      some (4#64, .done) ∧
    field (fun t => (t.blockIndex, t.seq)) (exec .sqAdvance { bare with seq := .blocks, blockIndex := 2#64, blockCount := 4#64 }) =
      some (3#64, .blocks) := by decide

/-! ## Single-block decompression (spec/42_block_decompress.md) -/

/-- R180's example. -/
theorem test_bdRefUnpack :
    field (fun t => (t.lane.a0, t.lane.a1))
      (exec .bdRefUnpack { bare with lane.blk := #v[0#8, 0xFF#8, 0xDB#8, 0xB6#8, 0x6D#8, 0xDB#8, 0xB6#8, 0x6D#8] }) =
    some (0#8, 255#8) := by decide

/-- R182's example. -/
theorem test_bdIdxAssemble :
    field (fun t => t.lane.idx)
      (exec .bdIdxAssemble { bare with lane.blk := #v[1#8, 2#8, 0x88#8, 0xC6#8, 0xFA#8, 0x88#8, 0xC6#8, 0xFA#8] }) =
    some 0xFAC688FAC688#48 := by decide

/-- R183's example. -/
theorem test_bdIdxSplit :
    field (fun t => t.lane.ext) (exec .bdIdxSplit { bare with lane.idx := 0xFAC688FAC688#48 }) =
    some #v[7#3, 6#3, 5#3, 4#3, 3#3, 2#3, 1#3, 0#3, 7#3, 6#3, 5#3, 4#3, 3#3, 2#3, 1#3, 0#3] := by decide

/-- R184's example. -/
theorem test_bdPixelOrder :
    field (fun t => t.lane.sel) (exec .bdPixelOrder { bare with
      lane.ext := #v[7#3, 6#3, 5#3, 4#3, 3#3, 2#3, 1#3, 0#3, 7#3, 6#3, 5#3, 4#3, 3#3, 2#3, 1#3, 0#3] }) =
    some #v[0#3, 1#3, 2#3, 3#3, 4#3, 5#3, 6#3, 7#3, 0#3, 1#3, 2#3, 3#3, 4#3, 5#3, 6#3, 7#3] := by decide

/-- R188's example: equal references give the 4-value mode; the compare is unsigned. -/
theorem test_bdModeSelect :
    field (fun t => t.lane.mode) (exec .bdModeSelect { bare with lane.a0 := 200#8, lane.a1 := 100#8 }) = some true ∧
    field (fun t => t.lane.mode) (exec .bdModeSelect { bare with lane.a0 := 128#8, lane.a1 := 128#8 }) = some false := by decide

theorem test_bdPalEndpoints :
    field (fun t => (t.lane.pal[0], t.lane.pal[1], t.lane.pal[2])) (exec .bdPalEndpoints { bare with lane.a0 := 200#8, lane.a1 := 100#8 }) =
    some (200#8, 100#8, 0#8) := by decide

/-- R190's corner case: A0 = 255, A1 = 254 gives 254 throughout. -/
theorem test_bdPal6 :
    field (fun t => t.lane.pal) (exec .bdPal6 { bare with lane.mode := true, lane.a0 := 255#8, lane.a1 := 254#8 }) =
    some #v[0#8, 0#8, 254#8, 254#8, 254#8, 254#8, 254#8, 254#8] := by decide

/-- R191's example. -/
theorem test_bdPal4 :
    field (fun t => t.lane.pal) (exec .bdPal4 { bare with lane.a0 := 100#8, lane.a1 := 200#8 }) =
    some #v[0#8, 0#8, 120#8, 140#8, 160#8, 180#8, 0#8, 0#8] := by decide

/-- R192. -/
theorem test_bdPal4Const :
    field (fun t => t.lane.pal) (exec .bdPal4Const bare) = some #v[0#8, 0#8, 0#8, 0#8, 0#8, 0#8, 0#8, 255#8] := by decide

/-- R193: pixel p takes entry SEL[p]. -/
theorem test_bdSelect :
    field (fun t => (t.lane.pix[0], t.lane.pix[1], t.lane.pix[15])) (exec .bdSelect { bare with
      lane.pal := #v[10#8, 20#8, 12#8, 14#8, 16#8, 18#8, 0#8, 255#8]
      lane.sel := #v[7#3, 2#3, 0#3, 0#3, 0#3, 0#3, 0#3, 0#3, 0#3, 0#3, 0#3, 0#3, 0#3, 0#3, 0#3, 5#3] }) =
    some (255#8, 12#8, 18#8) := by decide

/-- R194's example: TILE[1][2] = PIX[6], TILE[3][0] = PIX[12]. -/
theorem test_bdReshape :
    field (fun t => (t.lane.tile[1][2], t.lane.tile[3][0])) (exec .bdReshape { bare with lane.pix := tab16 fun p => BitVec.ofNat 8 p.val }) =
    some (6#8, 12#8) := by decide

/-- Vector T4 of spec/95_test_vectors.md: the whole decompression. -/
theorem test_decompress_T4 :
    field (fun t => t.lane.tile) (execAll decompressOps
      { bare with lane.blk := #v[0x0A#8, 0x14#8, 0x88#8, 0xC6#8, 0xFA#8, 0x77#8, 0x39#8, 0x05#8] }) =
    some #v[#v[10#8, 20#8, 12#8, 14#8], #v[16#8, 18#8, 0#8, 255#8], #v[255#8, 0#8, 18#8, 16#8], #v[14#8, 12#8, 20#8, 10#8]] := by
  decide

/-! ## The step -/

/-- A table word placed in the issue slot is what the next step runs, as the first operation after reset. -/
theorem test_withFetchWord :
    field (fun t => (t.inputLen, t.issue)) (step (State.reset.withFetchWord 48 0x11000000088)) = some (0x88#32, none) := by
  decide

/-- The host's START is served, and the decoder begins. -/
theorem test_host_starts :
    field (fun t => (t.seq, t.host)) (step { bare with host := [⟨3, .access true 0 4 1#32⟩] }) = some (.parse, []) := by decide

/-- R168: PARSE is one step. P7's file (W = 6, H = 8) has its header registers and CHECK next; the request behind it waits. -/
theorem test_parse_is_one_step :
    field (fun t => (t.seq, t.hdrWidth, t.hdrHeight, t.dataOffset, t.host))
      (step { started (header 6 8 codeBc4u) 1#32 with host := [⟨2, .reset⟩] }) =
    some (.check, 6#32, 8#32, 128#32, [⟨1, .reset⟩]) := by decide +kernel

/-- R168, R163: a block is one step. P1's block, of references 200 and 100 with every index 0 to 7, ends the operation (N = 1):
OUT holds the ramp of T1, its first and last rows here. -/
theorem test_block_is_one_step :
    field (fun t => (t.seq, t.blockIndex, (List.range 4).map t.outMem.peek, t.outMem.peek 15))
      (step { started (header 4 4 codeBc4u ++ [200#8, 100#8, 0x88#8, 0xC6#8, 0xFA#8, 0x88#8, 0xC6#8, 0xFA#8]) 1#32 with
        seq := .blocks, hdrWidth := 4#32, hdrHeight := 4#32, hdrFourcc := codeBc4u, dataOffset := 128#32, blockCount := 1#64 }) =
    some (.done, 1#64, [some 200#8, some 100#8, some 185#8, some 171#8], some 114#8) := by decide +kernel

/-- R169: with two lanes a block is the next lane's. -/
theorem test_lanes_take_turns :
    field (fun t => (t.lane.a0, t.otherLanes.map Latches.a0, t.lanes, t.blockIndex))
      (step { started (header 8 4 codeBc4u ++ List.replicate 16 7#8) 1#32 with
        seq := .blocks, hdrWidth := 8#32, hdrHeight := 4#32, dataOffset := 128#32, blockCount := 2#64
        lane.a0 := 1#8, otherLanes := [.zero] }) =
    some (7#8, [1#8], 2, 1#64) := by decide +kernel

/-! ## Sound states to witness hypotheses with -/

theorem bare_sound : bare.Inv where
  inCapacityLegal := by decide
  outCapacityLegal := by decide
  inCanonical := by decide
  inExists := fun _ _ => rfl
  outCanonical := by decide
  outExists := fun _ _ => rfl
  lenFits := by decide
  opLenFits := by decide
  issueEmpty := rfl
  busyUnacked := by decide
  shownBound := by decide
  spoiledWalks := fun h => nomatch h
  endedStopped := fun h => nomatch h
  codeZero := fun _ _ => ⟨rfl, rfl⟩
  sound := fun _ => ⟨⟨rfl, rfl, rfl, rfl, rfl, rfl, rfl, rfl, rfl, rfl, rfl⟩, rfl⟩

theorem startedEmpty_justStarted (wd : Word) : (startedEmpty wd).JustStarted :=
  ⟨inv_start (inv_configure bare_sound wd), rfl, rfl⟩

theorem started_justStarted (file : List Byte) (h : file.length ≤ 256) (wd : Word) : (started file wd).JustStarted :=
  ⟨inv_start (inv_configure (inv_len (inv_write bare_sound rfl 0 file (by rw [Nat.zero_add]; exact h))
    (BitVec.ofNat 32 file.length)) wd), rfl, rfl⟩

/-- A step answers a next state. -/
def Goes (s t : State) : Prop := step s = .next t

/-- A header and nothing more: L = 128. -/
def headerOnly : List Byte := header 4 4 codeBc4u

/-- One block. -/
def oneBlock : List Byte := header 4 4 codeBc4u ++ [200#8, 100#8, 0x88#8, 0xC6#8, 0xFA#8, 0x88#8, 0xC6#8, 0xFA#8]

/-- A file that ends inside its block. -/
def shortBlock : List Byte := header 4 4 codeBc4u ++ [200#8, 100#8, 0x88#8, 0xC6#8, 0xFA#8, 0x88#8, 0xC6#8]

/-- A file whose image is larger than OUT. -/
def tooLarge : List Byte := header 16 16 codeBc4u

/-- An operation that ended in ERROR with IE = 1, and a host request pending. -/
def failedWithIe (e : HostEvent) : State := { (startedEmpty 9#32).raise .truncatedInput 0#32 with host := [⟨0, e⟩] }

theorem failedWithIe_sound (e : HostEvent) : (failedWithIe e).Inv :=
  inv_host (inv_raise (startedEmpty_justStarted 9#32).1 rfl rfl ⟨rfl, rfl, rfl, rfl, rfl, rfl, rfl, rfl, rfl, rfl⟩ rfl
    .truncatedInput 0#32 (fun _ => rfl)
    (fun h => nomatch h)) _

/-- An operation under which the host wrote IN, in a phase, with N = n. -/
def spoiledAt (p : Phase) (n : DWord) : State :=
  { startedEmpty 1#32 with spoil := .running, seq := p, blockCount := n }

theorem spoiledAt_sound {p : Phase} {n : DWord} (hb : (spoiledAt p n).busy = true) (hw : (spoiledAt p n).walkSound) :
    (spoiledAt p n).Inv :=
  have h := (startedEmpty_justStarted 1#32).1
  ⟨h.inCapacityLegal, h.outCapacityLegal, h.inCanonical, h.inExists, h.outCanonical, h.outExists, h.lenFits, h.opLenFits,
    rfl, fun _ => rfl, fun _ => Nat.zero_le _, fun _ => ⟨hb, hw⟩, fun h => (nomatch h), fun _ _ => ⟨rfl, rfl⟩,
    fun h => (nomatch h)⟩

/-! ## Every statement with hypotheses has a state that meets them -/

theorem test_hyps_DecodeAndEncodeAgree :
    (Instr.blkMode6 1#8 0#8 0#48).wellFormed = true ∧ decode (.fourcc 0x55344342#32) = .ok .fmtBc4u := ⟨by decide, rfl⟩

theorem test_hyps_StepRunsTheDecodedOperation :
    decodeTableWord 32 0x55344342 = some .fmtBc4u ∧
    (let s : State := { bare with issue := some (.seq 1#3 0) }
     s.issue = some (.seq 1#3 0) ∧ decode (.seq 1#3 0) = .ok .hpLengthCheck) ∧
    (let s : State := startedEmpty 1#32
     s.issue = none ∧ s.busy = true ∧ s.spoil = .clean ∧ s.host = []) ∧
    (let r : Request := ⟨1, .reset⟩
     let s : State := { bare with seq := .check, host := [r] }
     s.issue = none ∧ s.busy = true ∧ s.spoil = .clean ∧ s.host = [r] ∧ r.wait ≠ 0) ∧
    (bare.seq ≠ .blocks ∧ ({ bare with seq := .blocks } : State).otherLanes = [] ∧
      ({ bare with seq := .blocks, otherLanes := [.zero] } : State).otherLanes = .zero :: []) ∧
    (let r : Request := ⟨7, .access true 0xFC 4 5#32⟩
     let s : State := { bare with host := [r] }
     s.issue = none ∧ s.host = [r] ∧ (s.busy = false ∨ r.wait = 0) ∧ r.event = .access true 0xFC 4 5#32 ∧
       0xFC % 4 = 0 ∧ 0xFC < 256 ∧ decode (.regacc (accessWord true 0xFC#8 5#32)) = .ok (.regWrite 0xFC#8 5#32)) :=
  ⟨by decide, ⟨rfl, rfl⟩, ⟨rfl, rfl, rfl, rfl⟩, ⟨rfl, rfl, rfl, rfl, by decide⟩, ⟨by decide, rfl, rfl⟩,
    rfl, rfl, .inl rfl, rfl, by decide, by decide, rfl⟩

theorem test_hyps_SequencerGoesOn :
    (phaseOps .blocks)[14]? = some .sqAdvance ∧
    (∃ t, exec .bdReshape { bare with seq := .blocks } = .next t ∧ t.seq = .blocks) ∧
    (∃ t, exec .dsCapacityCheck { bare with seq := .check } = .next t ∧ t.seq ≠ .check) ∧
    (∃ t, Instr.hpDataOffset ∈ phaseOps .parse ∧ exec .hpDataOffset { bare with seq := .parse } = .next t) :=
  ⟨rfl, ⟨_, rfl, rfl⟩, ⟨_, rfl, by decide⟩, ⟨_, by decide, rfl⟩⟩

theorem test_hyps_WaitsWhenNoOperationRuns :
    ([Phase.idle, .done, .error].all fun p =>
      let s : State := { bare with seq := p }
      decide (s.issue = none ∧ s.host = [] ∧ (s.seq = .idle ∨ s.seq = .done ∨ s.seq = .error))) = true := by
  decide

theorem test_hyps_ResetAbandonsTheOperation :
    (let r : Request := ⟨0, .reset⟩
     let s : State := { bare with seq := .blocks, host := [r] }
     s.issue = none ∧ s.host = [r] ∧ (s.busy = false ∨ r.wait = 0) ∧ r.event = .reset) ∧
    (let r : Request := ⟨5, .reset⟩
     let s : State := { bare with host := [r] }
     s.issue = none ∧ s.host = [r] ∧ (s.busy = false ∨ r.wait = 0) ∧ r.event = .reset) := by decide

theorem test_hyps_StepKeepsSoundness : ∃ t, (startedEmpty 1#32).Inv ∧ Goes (startedEmpty 1#32) t :=
  ⟨_, (startedEmpty_justStarted 1#32).1, rfl⟩

/-- The last byte of IN, the last byte of OUT, the last register offset. -/
theorem test_hyps_SoundStepsDoNotStop :
    [HostEvent.access true 0x3C 4 0#32, .writeIn 255 [7#8], .readOut 63, .reset].Forall fun e =>
      (failedWithIe e).Inv ∧ ∀ r ∈ (failedWithIe e).host.head?, r.event.legal (failedWithIe e) := by
  refine ⟨?_, ?_, ?_, ?_⟩ <;> refine ⟨failedWithIe_sound _, ?_⟩ <;> rintro r hr <;> cases hr
  · exact ⟨rfl, rfl⟩
  · exact Nat.le_refl 256
  · exact Nat.lt_succ_self 63
  · trivial

theorem test_hyps_StepKeepsBuffers : ∃ t,
    let s : State := { bare with
      hdrWidth := 4#32, seq := .blocks, inMem := [(0, 1#8), (255, 2#8)], outMem := [(3, 4#8), (63, 5#8)] }
    s.inMem.wf = true ∧ s.outMem.wf = true ∧ (∀ a, s.inCapacity ≤ a → s.inMem.peek a = none) ∧
      (∀ a, s.outCapacity ≤ a → s.outMem.peek a = none) ∧ Goes s t := by
  refine ⟨_, by decide, by decide, ?_, ?_, rfl⟩
  · intro a (h : 256 ≤ a)
    show (if 0 = a then some 1#8 else if 255 = a then some 2#8 else none) = none
    rw [if_neg (by omega), if_neg (by omega)]
  · intro a (h : 64 ≤ a)
    show (if 3 = a then some 4#8 else if 63 = a then some 5#8 else none) = none
    rw [if_neg (by omega), if_neg (by omega)]

/-- An operation just started, and one in phase BLOCKS under which the host wrote IN. -/
theorem test_hyps_PhasesFollowTheSequencer :
    (∃ t, (startedEmpty 1#32).Inv ∧ Goes (startedEmpty 1#32) t) ∧
    ∃ t, (spoiledAt .blocks 2#64).Inv ∧ Goes (spoiledAt .blocks 2#64) t :=
  ⟨⟨_, (startedEmpty_justStarted 1#32).1, rfl⟩, ⟨_, spoiledAt_sound (by decide) ⟨by decide, by decide⟩, rfl⟩⟩

/-- PARSE under a host write to IN never leads to DONE (10_state.md R26; 20_memory.md R78). -/
theorem test_spoiled_parse_keeps_the_order :
    field State.seq (step (spoiledAt .parse 0#64)) = some .check ∨ field State.seq (step (spoiledAt .parse 0#64)) = some .error := by
  show some (State.seq (State.spoiledVisit _)) = _ ∨ some (State.seq (State.spoiledVisit _)) = _
  unfold State.spoiledVisit; split
  · exact .inr rfl
  · exact .inl rfl

/-- Block 0 of 2 under a host write to IN: block 1 follows, or ERROR. -/
theorem test_spoiled_block_counts_by_one :
    (field State.blockIndex (step (spoiledAt .blocks 2#64)) = some 1#64 ∧ field State.seq (step (spoiledAt .blocks 2#64)) = some .blocks) ∨
    field State.seq (step (spoiledAt .blocks 2#64)) = some .error := by
  show (some (State.blockIndex (State.spoiledVisit _)) = _ ∧ some (State.seq (State.spoiledVisit _)) = _) ∨
    some (State.seq (State.spoiledVisit _)) = _
  unfold State.spoiledVisit; split
  · exact .inr rfl
  · exact .inl ⟨rfl, rfl⟩

/-- A second START is served; a reset waits at the head of the queue; a reset stands behind an issued operation. -/
theorem test_hyps_ConfigurationIsFixedWhileBusy :
    [({ startedEmpty 1#32 with host := [⟨0, .access true 0 4 0xF#32⟩] } : State),
     { startedEmpty 1#32 with host := [⟨1, .reset⟩] },
     { startedEmpty 1#32 with host := [⟨0, .reset⟩], issue := some (.seq 3#3 6) }].Forall fun s =>
      s.busy = true ∧ (∃ t, Goes s t) ∧ ¬ (s.issue = none ∧ ∃ r ∈ s.host.head?, r.event = .reset ∧ r.wait = 0) :=
  ⟨⟨rfl, ⟨_, rfl⟩, by decide⟩, ⟨rfl, ⟨_, rfl⟩, by decide⟩, ⟨rfl, ⟨_, rfl⟩, by decide⟩⟩

theorem test_hyps_NoOperationWritesIn : ∃ t, exec .bdReshape bare = .next t := ⟨_, rfl⟩

theorem test_hyps_OnlyTileWriteWritesOut :
    (∃ t, exec .bdReshape bare = .next t ∧ Instr.bdReshape ≠ .taTileWrite ∧ t.seq ≠ .error) ∧
    (∃ t, exec .fmtDx10 bare = .next t ∧ Instr.fmtDx10 ≠ .taTileWrite ∧ t.seq = .error) :=
  ⟨⟨_, rfl, by decide, by decide⟩, ⟨_, rfl, by decide, rfl⟩⟩

/-- Each of the three events that lower irq, from a state where it is high. -/
theorem test_hyps_InterruptRisesAndFalls :
    (∃ t, (startedEmpty 9#32).Inv ∧ Goes (startedEmpty 9#32) t ∧ (startedEmpty 9#32).busy = true ∧
      (t.seq = .done ∨ t.seq = .error)) ∧
    ([HostEvent.access true 0 4 9#32, .access true 0 4 6#32, .reset].Forall fun e =>
      (failedWithIe e).issue = none ∧ (failedWithIe e).host = [⟨0, e⟩] ∧ (failedWithIe e).busy = false ∧
      (failedWithIe e).irq = true ∧
      (e = .reset ∨ ∃ d, e = .access true 0 4 d ∧ (d.getLsbD 0 = true ∨ d.getLsbD 3 = false))) ∧
    (∃ t, (failedWithIe (.access true 0 4 6#32)).Inv ∧ Goes (failedWithIe (.access true 0 4 6#32)) t ∧
      (failedWithIe (.access true 0 4 6#32)).irq = true ∧ t.irq = false) :=
  ⟨⟨_, (startedEmpty_justStarted 9#32).1, rfl, rfl, .inr rfl⟩,
    ⟨⟨rfl, rfl, rfl, rfl, .inr ⟨_, rfl, .inl (by decide)⟩⟩, ⟨rfl, rfl, rfl, rfl, .inr ⟨_, rfl, .inr (by decide)⟩⟩,
      ⟨rfl, rfl, rfl, rfl, .inl rfl⟩⟩,
    ⟨_, failedWithIe_sound _, rfl, by decide, by decide⟩⟩

/-- Also for ConfigWritesControlBits and SetLengthClamps. -/
theorem test_hyps_StartBeginsAnOperation :
    ({ bare with seq := .parse } : State).busy = true ∧ ({ bare with seq := .done } : State).busy = false := by decide

/-- Offsets of the encoded eight bits, and 0x40, 0x100 and 0x1000 (vector G7) as the host's. -/
theorem test_hyps_OtherWritesAreIgnored :
    [0x04#8, 0x0C#8, 0x14#8, 0x3C#8, 0x40#8, 0xFC#8].all
      (fun off => decide (off.toNat % 4 = 0 ∧ off ≠ 0x00#8 ∧ off ≠ 0x10#8)) = true ∧
    [0x40, 0x100, 0x1000].Forall fun off =>
      let r : Request := ⟨0, .access true off 4 7#32⟩
      let s : State := { startedEmpty 1#32 with host := [r] }
      s.issue = none ∧ s.host = [r] ∧ (s.busy = false ∨ r.wait = 0) ∧ r.event = .access true off 4 7#32 ∧ off % 4 = 0 ∧
        0x40 ≤ off := by decide

theorem test_hyps_ReadsReturnTheRegisterMap :
    ((0x40#8).toNat % 4 = 0 ∧ 0x40 ≤ (0x40#8).toNat ∧ bare.busy = false) ∧
    (let s : State := startedEmpty 1#32
     (0x34#8).toNat % 4 = 0 ∧ s.busy = true ∧ s.spoil = .clean ∧ 0x34#8 ≠ 0x38#8 ∧ 0x34#8 ≠ 0x3C#8) ∧
    [0x40, 0x100, 0x1000].Forall fun off =>
      let r : Request := ⟨3, .access false off 4 0#32⟩
      let s : State := { bare with host := [r] }
      s.issue = none ∧ s.host = [r] ∧ (s.busy = false ∨ r.wait = 0) ∧ r.event = .access false off 4 0#32 ∧ off % 4 = 0 ∧
        0x40 ≤ off := by decide

theorem test_hyps_BusyReadsAreFreeWithinBounds :
    (let s : State := startedEmpty 1#32; s.busy = true ∧ s.spoil = .clean ∧ s.progress ≤ s.blockCount) ∧
    (let s : State := { startedEmpty 1#32 with spoil := .running }
     s.busy = true ∧ s.spoil ≠ .clean ∧ (0x14#8).toNat % 4 = 0 ∧ (0x3C#8).toNat % 4 = 0 ∧ 0x14 ≤ (0x14#8).toNat ∧
       (0x3C#8).toNat ≤ 0x3C ∧ 0x40 ≤ (0x40#8).toNat) := by decide

theorem test_hyps_OddAccessesAreRefused :
    ([HostEvent.access false 4 1 0#32, .access false 5 4 0#32, .access true 0x10 8 0#32].all fun e =>
      let s : State := { bare with host := [⟨0, e⟩] }
      decide (s.issue = none ∧ s.host = [⟨0, e⟩] ∧ s.busy = false)) = true ∧ (0xFF#8).toNat % 4 ≠ 0 := by decide

/-- Up to the last byte of IN. -/
theorem test_hyps_HostWritesLandInIn :
    let r : Request := ⟨0, .writeIn 254 [1#8, 2#8]⟩
    let s : State := { bare with host := [r] }
    s.issue = none ∧ s.host = [r] ∧ (s.busy = false ∨ r.wait = 0) ∧ r.event = .writeIn 254 [1#8, 2#8] ∧
      254 + [1#8, 2#8].length ≤ s.inCapacity ∧ s.acked = true := by decide

theorem test_hyps_SpoiledOperationsStillEnd :
    (let s : State := startedEmpty 1#32; s.busy = true ∧ s.acked = false ∧ 255 + [1#8].length ≤ s.inCapacity) ∧
    (let s : State := failedWithIe .reset; s.busy = false ∧ s.acked = false ∧ 255 + [1#8].length ≤ s.inCapacity) ∧
    (let s : State := { spoiledAt .check 0#64 with host := [⟨1, .reset⟩] }
     s.issue = none ∧ s.Undisturbed 1 ∧ s.busy = true ∧ s.spoil = .running) ∧
    [(2 ^ 60 + 1, spoiledAt .parse 0#64), (2 ^ 60, spoiledAt .check 0#64), (2, spoiledAt .blocks 2#64)].Forall fun c =>
      c.2.Inv ∧ c.2.Undisturbed c.1 ∧ c.2.spoil = .running ∧ (c.2.seq = .parse → 2 ^ 60 + 1 ≤ c.1) ∧
      (c.2.seq = .check → 2 ^ 60 ≤ c.1) ∧ (c.2.seq = .blocks → c.2.blockCount.toNat - c.2.blockIndex.toNat ≤ c.1) := by
  refine ⟨by decide, by decide, ⟨rfl, fun r h => by cases h; decide, rfl, rfl⟩,
    ⟨spoiledAt_sound (by decide) ⟨rfl, rfl⟩, fun _ h => (nomatch h), rfl, fun _ => Nat.le_refl _, by decide,
      by decide⟩,
    ⟨spoiledAt_sound (by decide) ⟨rfl, rfl⟩, fun _ h => (nomatch h), rfl, by decide, fun _ => Nat.le_refl _,
      by decide⟩,
    ⟨spoiledAt_sound (by decide) ⟨by decide, by decide⟩, fun _ h => (nomatch h), rfl, by decide,
      by decide, fun _ => by decide⟩⟩

theorem test_hyps_HostReadsOut :
    let r : Request := ⟨0, .readOut 63⟩
    let s : State := { bare with host := [r] }
    s.issue = none ∧ s.host = [r] ∧ (s.busy = false ∨ r.wait = 0) ∧ r.event = .readOut 63 ∧
      63 < s.outCapacity ∧ s.acked = true := by decide

theorem test_hyps_AbsentAddressesFault :
    bare.inCapacity < 256 + [0#8].length ∧ bare.outCapacity ≤ 64 ∧
    (let s : State := { bare with opLen := 257#32, dataOffset := 249#32 }
     s.inCapacity < s.dataOffset.toNat + 8 * s.blockIndex.toNat + 8 ∧
       s.dataOffset.toNat + 8 * s.blockIndex.toNat + 8 ≤ s.opLen.toNat) ∧
    ({ bare with inCapacity := 0x57 } : State).inCapacity < 0x58 ∧
    (let s : State := { bare with hdrWidth := 8#32, lane.placeRow := 2 }
     s.outCapacity ≤ (4 * s.lane.placeRow + (0 : Fin 4).val) * s.hdrWidth.toNat + (4 * s.lane.placeCol + (0 : Fin 4).val)) := by decide

theorem test_hyps_FormatOperationsFollowTheCode :
    let s : State := { withFile headerOnly with hdrFourcc := codeBc4u }
    0x58 ≤ s.inCapacity ∧ s.hdrFourcc = s.inWord 0x54 := by decide

theorem test_hyps_LengthCheckNeedsAHeader :
    ({ bare with opLen := 127#32 } : State).opLen.toNat < 128 ∧ 128 ≤ ({ bare with opLen := 128#32 } : State).opLen.toNat := by
  decide

/-- Also for MarkerAndDataOffset and FormatCheckComparesFourBytes. -/
theorem test_hyps_ReadFieldsCopiesTheHeader : 0x58 ≤ ({ bare with inCapacity := 0x58 } : State).inCapacity := by decide

theorem test_hyps_FormatCheckComparesFourBytes :
    (let s := withFile headerOnly
     0x58 ≤ s.inCapacity ∧ s.inByte 0x54 = 0x42#8 ∧ s.inByte 0x55 = 0x43#8 ∧ s.inByte 0x56 = 0x34#8 ∧ s.inByte 0x57 = 0x55#8) ∧
    (let s := withFile (header 4 4 0x54344342#32)
     0x58 ≤ s.inCapacity ∧ s.inByte 0x54 = 0x42#8 ∧ s.inByte 0x55 = 0x43#8 ∧ s.inByte 0x56 = 0x34#8 ∧
       ¬ s.inByte 0x57 = 0x55#8) := by decide

theorem test_hyps_StrictCheckNamesWhatIsWrong :
    (let s : State := { bare with opStrict := true, hdrMagic := 0x20534444#32, hdrSize := 124#32 }
     s.hdrMagic.toNat = 0x20534444 ∧ s.hdrSize.toNat = 124) ∧
    (let s : State := { bare with opStrict := true, hdrMagic := 0x20534444#32, hdrSize := 125#32 }
     s.opStrict = true ∧ (s.hdrMagic.toNat ≠ 0x20534444 ∨ s.hdrSize.toNat ≠ 124)) := by decide

/-- A started operation, with nothing pending or with a request that still waits `wait` turns. -/
def waiting (s : State) : Option Nat → State
  | none => s
  | some wait => { s with host := [⟨wait, .access false 4 4 0#32⟩] }

theorem waiting_justStarted {s : State} (h : s.JustStarted) (hs : s.host = []) (w : Option Nat) (k : Nat) (hw : ∀ n ∈ w, k ≤ n) :
    (waiting s w).JustStarted ∧ (waiting s w).Undisturbed k := by
  cases w with
  | none => exact ⟨h, fun r hr => by rw [show (waiting s none).host = [] from hs] at hr; cases hr⟩
  | some n => exact ⟨⟨inv_host h.1 _, h.2⟩, fun r hr => by cases hr; exact hw n rfl⟩

/-- L = 128, with STRICT 0 and 1, with nothing pending and with a request that waits one turn. -/
theorem test_hyps_HeaderRoundTrip :
    [(1#32, none), (3#32, some 1)].Forall fun p =>
      (waiting (started headerOnly p.1) p.2).JustStarted ∧ (waiting (started headerOnly p.1) p.2).Undisturbed 1 ∧
        128 ≤ (waiting (started headerOnly p.1) p.2).opLen.toNat :=
  ⟨⟨(waiting_justStarted (started_justStarted _ (by decide +kernel) _) rfl none 1 (by simp)).1,
      (waiting_justStarted (started_justStarted _ (by decide +kernel) _) rfl none 1 (by simp)).2, by decide +kernel⟩,
    ⟨(waiting_justStarted (started_justStarted _ (by decide +kernel) _) rfl (some 1) 1 (by simp)).1,
      (waiting_justStarted (started_justStarted _ (by decide +kernel) _) rfl (some 1) 1 (by simp)).2, by decide +kernel⟩⟩

/-- IN with another byte at 0x08, the first byte after the magic and the size. -/
theorem test_hyps_ParserReadsOnlyItsFields :
    let s := started headerOnly 3#32
    let m := s.inMem.poke 0x08 0xFF#8
    s.JustStarted ∧ ({ s with inMem := m } : State).JustStarted ∧ s.Undisturbed 1 ∧
      (∀ a, (a < 0x08 ∨ (0x0C ≤ a ∧ a < 0x14) ∨ (0x54 ≤ a ∧ a < 0x58)) →
        ({ s with inMem := m } : State).inByte a = s.inByte a) ∧ m ≠ s.inMem := by
  intro s m
  refine ⟨started_justStarted _ (by decide +kernel) _, ?_, (fun r hr => by cases hr), ?_, by decide +kernel⟩
  · have h : ({ s with inMem := m } : State) = started (headerOnly.set 8 0xFF#8) 3#32 := by decide +kernel
    rw [h]
    exact started_justStarted (headerOnly.set 8 0xFF#8) (by decide +kernel) 3#32
  · intro a ha
    have h : m.peek a = s.inMem.peek a := by
      rw [show m = s.inMem.poke 0x08 0xFF#8 from rfl, peek_poke]
      rw [if_neg (by omega)]
    show (match m.peek a with | some b => b | none => _) = (match s.inMem.peek a with | some b => b | none => _)
    rw [h]

theorem test_hyps_AlignCheckNamesWhatIsMisaligned :
    (let s : State := { bare with hdrWidth := 0xFFFFFFFC#32, hdrHeight := 4#32 }
     s.hdrWidth.toNat % 4 = 0 ∧ s.hdrHeight.toNat % 4 = 0) ∧
    (let s : State := { bare with hdrWidth := 4#32, hdrHeight := 0xFFFFFFFF#32 }
     s.hdrWidth.toNat % 4 ≠ 0 ∨ s.hdrHeight.toNat % 4 ≠ 0) := by decide

theorem test_hyps_BlockCountIsExact :
    let s : State := { bare with hdrWidth := 0xFFFFFFFC#32, hdrHeight := 0xFFFFFFFC#32 }
    s.hdrWidth.toNat % 4 = 0 ∧ s.hdrHeight.toNat % 4 = 0 := by decide

theorem test_hyps_CapacityCheckEndsThePhase :
    (let s : State := { bare with hdrWidth := 5#32, hdrHeight := 13#32 }
     s.outCapacity < s.hdrWidth.toNat * s.hdrHeight.toNat) ∧
    (let s : State := { bare with hdrHeight := 16#32 }
     s.hdrWidth.toNat * s.hdrHeight.toNat ≤ s.outCapacity ∧ s.blockCount.toNat = 0) ∧
    (let s : State := { bare with hdrWidth := 8#32, hdrHeight := 8#32, blockCount := 4#64 }
     s.hdrWidth.toNat * s.hdrHeight.toNat ≤ s.outCapacity ∧ s.blockCount.toNat ≠ 0) := by decide

theorem test_hyps_BlockFetchTakesEightBytes :
    (let s : State := { bare with opLen := 135#32, dataOffset := 128#32 }
     s.opLen.toNat ≤ s.inCapacity ∧ s.opLen.toNat < s.dataOffset.toNat + 8 * s.blockIndex.toNat + 8) ∧
    (let s : State := { bare with opLen := 136#32, dataOffset := 128#32 }
     s.opLen.toNat ≤ s.inCapacity ∧ s.dataOffset.toNat + 8 * s.blockIndex.toNat + 8 ≤ s.opLen.toNat) := by decide

/-- The smallest image, in both orders. -/
theorem test_hyps_TilePlaceFollowsTheOrder :
    [TileOrder.columnMajor, .rowMajor].all (fun o =>
      let s : State := { bare with hdrWidth := 4#32, hdrHeight := 4#32, opOrder := o }
      decide (4 ≤ s.hdrWidth.toNat ∧ 4 ≤ s.hdrHeight.toNat ∧ s.opOrder = o)) = true := by decide

theorem test_hyps_TilePlaceWithoutATileIsFree :
    let s : State := { bare with hdrWidth := 3#32, hdrHeight := 4#32 }
    s.hdrWidth.toNat < 4 ∨ s.hdrHeight.toNat < 4 := by decide

/-- The last tile of an 8x8 image in 64 bytes of OUT. -/
theorem test_hyps_TileWriteStoresSixteenBytes :
    let s : State := { bare with hdrWidth := 8#32, lane.placeRow := 1, lane.placeCol := 1 }
    (∀ y x : Fin 4, (4 * s.lane.placeRow + y.val) * s.hdrWidth.toNat + (4 * s.lane.placeCol + x.val) < s.outCapacity) ∧
      4 ≤ s.hdrWidth.toNat := by decide

/-- 4 tiles; the place of the last. -/
theorem test_hyps_TilesPartitionThePixelArray :
    let s : State := { bare with hdrWidth := 8#32, hdrHeight := 8#32 }
    s.hdrWidth.toNat % 4 = 0 ∧ s.hdrHeight.toNat % 4 = 0 ∧ s.pixels ≠ 0 ∧ (3#64).toNat < s.pixels / 16 ∧
      field (fun t => (t.lane.placeRow, t.lane.placeCol)) (exec .taTilePlace { s with blockIndex := 3#64 }) = some (1, 1) := by decide

/-- The last block, and the one before it. -/
theorem test_hyps_AdvanceCountsBlocks :
    (let s : State := { bare with blockIndex := 3#64, blockCount := 4#64 }
     s.blockIndex.toNat < s.blockCount.toNat ∧ field (fun t => t.blockIndex) (exec .sqAdvance s) = some s.blockCount) ∧
    (let s : State := { bare with blockIndex := 2#64, blockCount := 4#64 }
     s.blockIndex.toNat < s.blockCount.toNat ∧ field (fun t => t.blockIndex) (exec .sqAdvance s) ≠ some s.blockCount) := by
  decide

theorem test_hyps_PaletteOperationsWriteTheEntries :
    bare.lane.mode = false ∧ ({ bare with lane.mode := true } : State).lane.mode = true := by decide

theorem test_hyps_PaletteIsOrdered :
    (let s : State := { bare with lane.a0 := 1#8 }; s.lane.a0.toNat > s.lane.a1.toNat) ∧
    (let s : State := { bare with lane.a0 := 255#8, lane.a1 := 255#8 }; s.lane.a0.toNat ≤ s.lane.a1.toNat ∧ s.lane.a0 = 255#8 ∧ s.lane.a1 = 255#8) := by
  decide

theorem test_hyps_BlockModesBuildPalettes : (1#8).toNat > (0#8).toNat ∧ (255#8).toNat ≤ (255#8).toNat := by decide

theorem test_hyps_SelectFollowsTheIndexSelections :
    (let s : State := { bare with
      lane.a0 := 200#8, lane.a1 := 100#8, lane.mode := true, lane.pal := #v[200#8, 100#8, 185#8, 171#8, 157#8, 142#8, 128#8, 114#8] }
     s.lane.pal.toList.map BitVec.toNat = Spec.palette s.lane.a0.toNat s.lane.a1.toNat ∧ s.lane.mode = decide (s.lane.a0.toNat > s.lane.a1.toNat)) ∧
    (let s : State := { bare with
      lane.a0 := 100#8, lane.a1 := 200#8, lane.pal := #v[100#8, 200#8, 120#8, 140#8, 160#8, 180#8, 0#8, 255#8] }
     s.lane.pal.toList.map BitVec.toNat = Spec.palette s.lane.a0.toNat s.lane.a1.toNat ∧ s.lane.mode = decide (s.lane.a0.toNat > s.lane.a1.toNat)) := by
  decide

/-- The first check fails (L = 0), with a request that waits two turns; and the last (16 x 16 pixels in 64 bytes). -/
theorem test_hyps_FirstFailedCheckIsReported :
    (let s := waiting (startedEmpty 1#32) (some 2)
     s.JustStarted ∧ s.Undisturbed 2 ∧ Spec.checkError s.inByte s.opLen.toNat s.opStrict s.outCapacity = some (2, 0)) ∧
    (let s := started tooLarge 3#32
     s.JustStarted ∧ s.Undisturbed 2 ∧ Spec.checkError s.inByte s.opLen.toNat s.opStrict s.outCapacity = some (7, 0)) := by
  refine ⟨⟨?_, ?_, by decide +kernel⟩, ⟨started_justStarted _ (by decide +kernel) _, (fun r hr => by cases hr), by decide +kernel⟩⟩
  · exact (waiting_justStarted (startedEmpty_justStarted _) rfl (some 2) 2 (by simp)).1
  · exact (waiting_justStarted (startedEmpty_justStarted 1#32) rfl (some 2) 2 (by simp)).2

/-- One block that the file just holds, and a request that waits the three visits. -/
theorem test_hyps_OperationDecodesTheImage :
    let s := waiting (started oneBlock 3#32) (some 3)
    s.JustStarted ∧ s.Undisturbed (Spec.blocks s.inByte + 2) ∧
      Spec.checkError s.inByte s.opLen.toNat s.opStrict s.outCapacity = none ∧
      128 + 8 * Spec.blocks s.inByte ≤ s.opLen.toNat ∧ Spec.blocks s.inByte = 1 := by
  have hb : Spec.blocks (waiting (started oneBlock 3#32) (some 3)).inByte = 1 := by decide +kernel
  refine ⟨?_, ?_, by decide +kernel, by decide +kernel, hb⟩
  · exact (waiting_justStarted (started_justStarted _ (by decide +kernel) _) rfl (some 3) 3 (by simp)).1
  · rw [hb]; exact (waiting_justStarted (started_justStarted _ (by decide +kernel) _) rfl (some 3) 3 (by simp)).2

/-- The same block one byte short. -/
theorem test_hyps_ShortDataNamesTheFirstMissingBlock :
    let s := started shortBlock 3#32
    s.JustStarted ∧ s.Undisturbed (Spec.blocks s.inByte + 2) ∧
      Spec.checkError s.inByte s.opLen.toNat s.opStrict s.outCapacity = none ∧
      s.opLen.toNat < 128 + 8 * Spec.blocks s.inByte :=
  ⟨started_justStarted _ (by decide +kernel) _, (fun r hr => by cases hr), by decide +kernel, by decide +kernel⟩

end Sys2Proof.Tests
end

section
/-! PROOFS of the family 00_scope: a word of the opcode table decodes by its format's own decoder (O2), and every step keeps a
sound state sound (O9). -/

namespace Sys2Proof

/-- Every 32-bit word of the table is a format code (30_encoding.md R93). -/
theorem decodeTableWord_fourcc (w : Word) : decodeTableWord 32 w.toNat = some (decodeFourcc w) := by
  have hb : Code.ofBytes .fourcc (leBytes 4 w.toNat) = .ok (.fourcc w) := ofBytes_toBytes (.fourcc w)
  simp [decodeTableWord, codeOfTableWord, tableFormat, hb, decode, Except.toOption]

/-- Every 64-bit word of the table is a block (R94). -/
theorem decodeTableWord_block (q : DWord) : decodeTableWord 64 q.toNat = some (decodeBlock q) := by
  have hb : Code.ofBytes .block (leBytes 8 q.toNat) = .ok (.block q) := ofBytes_toBytes (.block q)
  simp [decodeTableWord, codeOfTableWord, tableFormat, hb, decode, Except.toOption]

/-- A 48-bit word of the table that fits 41 bits is a register access (R101). -/
theorem decodeTableWord_regacc (a : BitVec 41) : decodeTableWord 48 a.toNat = (decodeRegacc a).toOption := by
  have hb : Code.ofBytes .regacc (leBytes 6 a.toNat) = .ok (.regacc a) := ofBytes_toBytes (.regacc a)
  simp [decodeTableWord, codeOfTableWord, tableFormat, hb, decode, Except.toOption]

end Sys2Proof

namespace Sys2Proof.Machine

/-! ## Updates that keep a sound state sound -/

/-- The invariant does not speak of the lanes' latches nor of the free draws. -/
theorem inv_latches {s : State} (hs : s.Inv) (l : Latches) (ls : List Latches) (d : Nat) :
    ({ s with lane := l, otherLanes := ls, draws := d } : State).Inv :=
  ⟨hs.inCapacityLegal, hs.outCapacityLegal, hs.inCanonical, hs.inExists, hs.outCanonical, hs.outExists, hs.lenFits,
    hs.opLenFits, hs.issueEmpty, hs.busyUnacked, hs.shownBound, hs.spoiledWalks, hs.endedStopped, hs.codeZero, hs.sound⟩

/-- Writing bytes of OUT that exist (20_memory.md R61) keeps the invariant. -/
theorem inv_outWrite {s : State} (hs : s.Inv) (cs : List Host.Cell) (h : ∀ c ∈ cs, c.1 < s.outCapacity) :
    ({ s with outMem := s.outMem.pokeAll cs } : State).Inv :=
  ⟨hs.inCapacityLegal, hs.outCapacityLegal, hs.inCanonical, hs.inExists, pokeAll_wf cs hs.outCanonical,
    below_pokeAll cs hs.outExists h, hs.lenFits, hs.opLenFits, hs.issueEmpty, hs.busyUnacked, hs.shownBound,
    hs.spoiledWalks, hs.endedStopped, hs.codeZero, hs.sound⟩

/-- The next lane's turn keeps the invariant. -/
theorem inv_nextLane {s : State} (hs : s.Inv) : s.nextLane.Inv := by
  rw [nextLane_eq]
  exact inv_latches hs _ _ s.draws

theorem SameBackground.refl (s : State) : SameBackground s s := ⟨rfl, rfl, rfl, rfl, rfl, rfl, rfl, rfl, rfl, rfl⟩

theorem SameBackground.setSeq {s t : State} (h : SameBackground s t) (p : Phase) : SameBackground s (t.setSeq p) :=
  ⟨h.a, h.b, h.c, h.e, h.f, h.g, h.h, h.i, h.j, h.k⟩

theorem SameBackground.finish {s t : State} (h : SameBackground s t) (p : Phase) : SameBackground s (t.finish p) :=
  ⟨h.a, h.b, h.c, h.e, h.f, h.g, h.h, h.i, h.j, h.k⟩

theorem SameBackground.blockIndex {s t : State} (h : SameBackground s t) (k : DWord) :
    SameBackground s { t with blockIndex := k } :=
  ⟨h.a, h.b, h.c, h.e, h.f, h.g, h.h, h.i, h.j, h.k⟩

theorem SameBackground.parsed (s : State) : SameBackground s s.parsed := by constructor <;> simp

theorem SameBackground.counted (s : State) : SameBackground s s.counted := by constructor <;> simp

/-- The code and the information are 0 while an operation runs that the host has not spoiled (60_exceptions.md R222). -/
theorem codeZero_of_busy {s : State} (hs : s.Inv) (hb : s.busy = true) (hc : s.spoil = .clean) :
    s.errorCode = 0#4 ∧ s.errorInfo = 0#32 :=
  hs.codeZero (by simp [hc]) (by rw [busy_iff] at hb; rcases hb with h | h | h <;> simp [h])

/-! ## What a sound phase says, phase by phase -/

theorem phaseSound_parse {s : State} (hq : s.seq = .parse) : s.phaseSound ↔ s.resultsZero := by
  simp only [State.phaseSound, hq]

theorem phaseSound_check {s : State} (hq : s.seq = .check) : s.phaseSound ↔
    128 ≤ s.opLen.toNat ∧ s.fieldsRead ∧ s.formatRead ∧ s.blockIndex = 0#64 ∧ s.blockCount = 0#64 := by
  simp only [State.phaseSound, hq]

theorem phaseSound_blocks {s : State} (hq : s.seq = .blocks) : s.phaseSound ↔
    128 ≤ s.opLen.toNat ∧ s.fieldsRead ∧ s.imageAccepted ∧ s.blockIndex.toNat < s.blockCount.toNat := by
  simp only [State.phaseSound, hq]

theorem phaseSound_done {s : State} (hq : s.seq = .done) :
    s.phaseSound ↔ s.imageAccepted ∧ s.blockIndex = s.blockCount := by
  simp only [State.phaseSound, hq]

theorem setSeq_fieldsRead (s : State) (p : Phase) : (s.setSeq p).fieldsRead ↔ s.fieldsRead := Iff.rfl

theorem setSeq_formatRead (s : State) (p : Phase) : (s.setSeq p).formatRead ↔ s.formatRead := Iff.rfl

/-- HP.READ_FIELDS fills the header registers from IN (40_header_parser.md R131). -/
theorem parsed_fieldsRead (s : State) : s.parsed.fieldsRead := by simp [State.fieldsRead]

/-- HP.DX10_DETECT and HP.DATA_OFFSET take the marker and the data offset from the code (R134, R135). -/
theorem parsed_formatRead (s : State) : s.parsed.formatRead := by simp [State.formatRead]

/-! ## The PARSE and the CHECK visit -/

/-- The PARSE visit keeps the invariant: an error leaves the counters 0, and the way to CHECK has read the header. -/
theorem inv_afterParse {s : State} (hs : s.Inv) (hc : s.spoil = .clean) (hq : s.seq = .parse) : s.afterParse.Inv := by
  have hb : s.busy = true := busy_of_seq (.inl hq)
  obtain ⟨-, -, -, -, -, -, -, -, -, hn, ht⟩ := (phaseSound_parse hq).1 (hs.sound hc)
  unfold State.afterParse
  split
  · exact inv_raise hs hb hc (.refl s) rfl _ _ (fun _ => ht) nofun
  · next hl =>
    split
    · exact inv_raise hs hb hc (.parsed s) (parsed_outMem s) _ _ (fun _ => (parsed_blockIndex s).trans ht) nofun
    · refine inv_of_sameBackground hs hb hc ((SameBackground.parsed s).setSeq .check) (by simpa using hs.outCanonical)
        (by simpa using hs.outExists) (fun _ => by simpa using hs.shownBound hb)
        (fun _ => by simpa using codeZero_of_busy hs hb hc) ?_
      rw [phaseSound_check (setSeq_seq _ _), setSeq_fieldsRead, setSeq_formatRead]
      simp only [setSeq_opLen, setSeq_blockIndex, setSeq_blockCount, parsed_opLen, parsed_blockIndex, parsed_blockCount]
      exact ⟨Nat.le_of_not_lt hl, parsed_fieldsRead s, parsed_formatRead s, ht, hn⟩

/-- The block count of an image that fits OUT is exact (41_decode_dispatch.md R156). -/
theorem counted_blockCount_toNat {s : State} (hs : s.Inv) (hp : s.pixels ≤ s.outCapacity) :
    s.counted.blockCount.toNat = s.pixels / 16 := by
  have hcap : s.outCapacity < 2 ^ 64 := hs.outCapacityLegal.2
  rw [counted_blockCount, BitVec.toNat_ofNat, Nat.mod_eq_of_lt (by omega)]

/-- The checks that let an image through (R152-R157) establish what phase BLOCKS and DONE say of it. -/
theorem counted_imageAccepted {s : State} (hs : s.Inv) (hf : s.fieldsRead) (hd : s.formatRead)
    (hcode : s.inWord 0x54 = codeBc4u) (hal : ¬ (s.width % 4 != 0 || s.height % 4 != 0) = true)
    (hp : s.pixels ≤ s.outCapacity) : s.counted.imageAccepted := by
  obtain ⟨-, -, -, -, hfour⟩ := hf
  obtain ⟨hdx, hoff⟩ := hd
  have hdx : s.hdrDx10 = false := by rw [hdx, hcode]; decide
  have hoff : s.dataOffset = 128#32 := by rw [hoff, hdx]; rfl
  simp only [Bool.or_eq_true, bne_iff_ne, ne_eq, not_or, not_not] at hal
  exact ⟨hfour.trans hcode, hdx, hoff, hal.1, hal.2, counted_blockCount_toNat hs hp, hp⟩

/-- The CHECK visit keeps the invariant: an error leaves the index 0, and the ways to DONE and BLOCKS have accepted the
image. -/
theorem inv_afterCheck {s : State} (hs : s.Inv) (hc : s.spoil = .clean) (hq : s.seq = .check) : s.afterCheck.Inv := by
  have hb : s.busy = true := busy_of_seq (.inr (.inl hq))
  obtain ⟨hl, hf, hd, ht, hn⟩ := (phaseSound_check hq).1 (hs.sound hc)
  have hz := codeZero_of_busy hs hb hc
  unfold State.afterCheck
  split
  · exact inv_raise hs hb hc (.refl s) rfl _ _ (fun _ => ht) nofun
  next hcode =>
  split
  · exact inv_raise hs hb hc (.refl s) rfl _ _ (fun _ => ht) nofun
  next hal =>
  split
  · exact inv_raise hs hb hc (.counted s) (counted_outMem s) _ _ (fun _ => (counted_blockIndex s).trans ht) nofun
  next hp =>
  have himg := counted_imageAccepted hs hf hd (not_not.1 hcode) hal (Nat.le_of_not_lt hp)
  split
  · next h0 =>
    exact inv_of_sameBackground hs hb hc ((SameBackground.counted s).finish .done) hs.outCanonical hs.outExists
      nofun (fun _ => hz) ((phaseSound_done rfl).2 ⟨himg, ht.trans h0.symm⟩)
  · next h0 =>
    have hp0 : s.progress ≤ s.counted.blockCount :=
      BitVec.le_trans (hs.shownBound hb) (by rw [hn]; exact Nat.zero_le _)
    have hpos : 0 < s.counted.blockCount.toNat := Nat.pos_of_ne_zero fun h => h0 (BitVec.eq_of_toNat_eq h)
    exact inv_of_sameBackground hs hb hc (((SameBackground.counted s).setSeq .blocks).blockIndex 0#64)
      hs.outCanonical hs.outExists (fun _ => hp0) (fun _ => hz) ((phaseSound_blocks rfl).2 ⟨hl, hf, himg, hpos⟩)

/-! ## The BLOCK visit -/

/-- What SQ.BLOCK_FETCH (R158) can answer. -/
theorem exec_sqBlockFetch_cases {s t : State} (h : exec .sqBlockFetch s = .next t) :
    t = s.raise .invalidBlockSize (s.blockIndex.extractLsb' 0 32) ∨ t = { s with lane := t.lane } := by
  simp only [exec, execSqBlockFetch, State.readingIn] at h
  split at h
  · cases h; exact .inl rfl
  · split at h <;> cases h
    exact .inr rfl

/-- What TA.TILE_PLACE (R160) can answer. -/
theorem exec_taTilePlace_eq {s t : State} (h : exec .taTilePlace s = .next t) :
    t = { s with lane := t.lane, draws := t.draws } := by
  simp only [exec, execTaTilePlace] at h
  split at h <;> cases h <;> rfl

/-- What TA.TILE_WRITE (R161) can answer. -/
theorem exec_taTileWrite_eq {s t : State} (h : exec .taTileWrite s = .next t) :
    (∀ c ∈ s.tileCells, c.1 < s.outCapacity) ∧ t = { s with outMem := s.outMem.pokeAll s.tileCells } := by
  simp only [exec, execTaTileWrite] at h
  split at h <;> cases h
  next hc => exact ⟨by simpa using hc, rfl⟩

/-- What SQ.ADVANCE (R163) can answer. -/
theorem exec_sqAdvance_cases {s t : State} (h : exec .sqAdvance s = .next t) :
    (s.blockIndex + 1#64 = s.blockCount ∧ t = ({ s with blockIndex := s.blockIndex + 1#64 } : State).finish .done) ∨
    (s.blockIndex + 1#64 ≠ s.blockCount ∧ t = { s with blockIndex := s.blockIndex + 1#64 }) := by
  simp only [exec, execSqAdvance] at h
  split at h <;> cases h
  · next he => exact .inl ⟨he, rfl⟩
  · next he => exact .inr ⟨he, rfl⟩

/-- A block index below `N` that is not the last goes up and stays below `N`. -/
theorem succ_toNat_lt {t n : DWord} (h : t.toNat < n.toNat) (hne : t + 1#64 ≠ n) : (t + 1#64).toNat < n.toNat := by
  bv_omega

/-- SQ.ADVANCE keeps the invariant: the walk ends in DONE with `t = N`, or goes on with `t < N`. -/
theorem inv_sqAdvance {s t : State} (hs : s.Inv) (hc : s.spoil = .clean) (hq : s.seq = .blocks)
    (h : exec .sqAdvance s = .next t) : t.Inv := by
  have hb : s.busy = true := busy_of_seq (.inr (.inr hq))
  obtain ⟨hl, hf, himg, hlt⟩ := (phaseSound_blocks hq).1 (hs.sound hc)
  have hz := codeZero_of_busy hs hb hc
  rcases exec_sqAdvance_cases h with ⟨hlast, rfl⟩ | ⟨hmore, rfl⟩
  · exact inv_of_sameBackground hs hb hc ((SameBackground.refl s).blockIndex _ |>.finish .done) hs.outCanonical hs.outExists
      nofun (fun _ => hz) ((phaseSound_done rfl).2 ⟨himg, hlast⟩)
  · refine inv_of_sameBackground hs hb hc ((SameBackground.refl s).blockIndex _) hs.outCanonical hs.outExists
      (fun _ => hs.shownBound hb) (fun _ => hz) ?_
    exact (phaseSound_blocks (by exact hq)).2 ⟨hl, hf, himg, succ_toNat_lt hlt hmore⟩

/-- Every operation of a block keeps the invariant, and spoils nothing. -/
theorem inv_blockOp {i : Instr} (hi : i ∈ blockOps) {s t : State} (hs : s.Inv) (hc : s.spoil = .clean)
    (hq : s.seq = .blocks) (h : exec i s = .next t) : t.Inv ∧ t.spoil = .clean := by
  have hb : s.busy = true := busy_of_seq (.inr (.inr hq))
  have hlatch : ∀ l d, ({ s with lane := l, draws := d } : State).Inv := fun l d => inv_latches hs l s.otherLanes d
  rw [blockOps_eq, List.mem_cons, List.mem_append] at hi
  rcases hi with rfl | hi | hi
  · rcases exec_sqBlockFetch_cases h with rfl | ht
    · obtain ⟨-, -, -, hlt⟩ := (phaseSound_blocks hq).1 (hs.sound hc)
      exact ⟨inv_raise hs hb hc (.refl s) rfl _ _ (fun h => absurd rfl h) (fun _ => ⟨hlt, rfl⟩), hc⟩
    · rw [ht]; exact ⟨hlatch _ s.draws, hc⟩
  · rw [exec_decompress hi h]; exact ⟨hlatch _ s.draws, hc⟩
  · simp only [List.mem_cons, List.not_mem_nil, or_false] at hi
    rcases hi with rfl | rfl | rfl
    · rw [exec_taTilePlace_eq h]; exact ⟨hlatch _ _, hc⟩
    · obtain ⟨hcells, rfl⟩ := exec_taTileWrite_eq h
      exact ⟨inv_outWrite hs _ hcells, hc⟩
    · refine ⟨inv_sqAdvance hs hc hq h, ?_⟩
      rcases exec_sqAdvance_cases h with ⟨-, rfl⟩ | ⟨-, rfl⟩ <;> exact hc

/-- Operations of a block, run in a visit, keep the invariant. -/
theorem inv_runOps_blocks {is : List Instr} (his : ∀ i ∈ is, i ∈ blockOps) {s t : State} (hs : s.Inv)
    (hc : s.spoil = .clean) (hq : s.seq = .blocks) (h : runOps .blocks is s = .next t) : t.Inv := by
  induction is generalizing s with
  | nil => cases h; exact hs
  | cons i is ih =>
    simp only [runOps] at h
    split at h
    · next u hu =>
      obtain ⟨hui, huc⟩ := inv_blockOp (his i (by simp)) hs hc hq hu
      split at h
      · next huq => exact ih (fun j hj => his j (by simp [hj])) hui huc huq h
      · cases h; exact hui
    · cases h
    · cases h

/-! ## The decoder's and the host's turns -/

/-- A visit of an operation that the host has not spoiled keeps the invariant. -/
theorem inv_decoderVisit {s t : State} (hs : s.Inv) (hb : s.busy = true) (hc : s.spoil = .clean)
    (h : decoderVisit s = .next t) : t.Inv := by
  have hcap : 0x58 ≤ s.inCapacity := Nat.le_trans (by decide) hs.inCapacityLegal.1
  rcases busy_iff.1 hb with hq | hq | hq
  · rw [visit_parse hq hcap] at h
    cases h; exact inv_afterParse hs hc hq
  · rw [visit_check hq hcap] at h
    cases h; exact inv_afterCheck hs hc hq
  · rw [visit_block hq] at h
    refine inv_runOps_blocks (fun _ hi => hi) (inv_nextLane hs) ?_ ?_ h <;> rw [nextLane_eq]
    · exact hc
    · exact hq

/-- The decoder's turn keeps the invariant. -/
theorem inv_decoderTurn {s t : State} (hs : s.Inv) (hb : s.busy = true) (h : decoderTurn s = .next t) : t.Inv := by
  cases hsp : s.spoil with
  | clean => rw [decoderTurn_clean hsp] at h; exact inv_decoderVisit hs hb hsp h
  | running => rw [decoderTurn_running hsp] at h; cases h; exact inv_spoiledVisit hs hsp
  | ended =>
    have hstop := hs.endedStopped hsp
    rw [busy_iff] at hb
    rcases hstop with hq | hq <;> simp [hq] at hb

/-- The operation of a register access is the write or the read of its offset (10_state.md R29, 30_encoding.md R101). -/
theorem exec_of_decodeRegacc {w : Bool} {off : Byte} {data : Word} {i : Instr} {s t : State}
    (hd : decodeRegacc (accessWord w off data) = .ok i) (h : exec i s = .next t) :
    t = if w then s.writePort off data else s.readPort off := by
  rw [decodeRegacc_accessWord] at hd
  split_ifs at hd with hoff hw hctrl hstart hlen hdata <;> cases hd
  · cases h; simp only [hw, if_true, State.writePort, if_pos hctrl, if_pos hstart]
  · cases h; simp only [hw, if_true, State.writePort, if_pos hctrl, if_neg hstart]
  · cases h; simp only [hw, if_true, State.writePort, if_neg hctrl, if_pos hlen]
  · simpa [exec, execRegWrite, hoff, hw, eq_comm] using h
  · simpa [exec, execRegRead, hoff, hw, eq_comm] using h

/-- Serving a host event keeps the invariant. -/
theorem inv_serveHost {e : HostEvent} {s t : State} (hs : s.Inv) (h : serveHost e s = .next t) : t.Inv := by
  cases e with
  | access write off bytes data =>
    simp only [serveHost, hostAccess] at h
    split at h
    · cases h
    split at h
    · cases h
      split
      · exact hs
      · exact inv_port hs 0#32 s.outData s.draws
    · simp only [runCode, decode] at h
      split at h
      · next i hd =>
        rw [exec_of_decodeRegacc hd h]
        split
        · exact inv_writePort hs _ _
        · exact inv_readPort hs _
      · cases h
  | writeIn a bs =>
    by_cases ha : a + bs.length ≤ s.inCapacity
    · obtain ⟨u, hu, hinv⟩ := hostWriteIn_inv hs a bs ha
      cases hu.symm.trans h
      exact hinv
    · simp [serveHost, State.hostWriteIn, Nat.lt_of_not_le ha] at h
  | readOut a =>
    simp only [serveHost, State.hostReadOut] at h
    split at h
    · cases h
    · split at h <;> cases h
      · exact inv_port hs s.portData _ _
      · exact inv_port hs s.portData _ s.draws
  | reset => cases h; exact inv_reset hs

end Sys2Proof.Machine

open Sys2Proof Sys2Proof.Machine

/-- Settles O2: a word of each width decodes by its format's own decoder, which computes the row of each word given. -/
theorem tableWordsDecode : Obligations.TableWordsDecode := by
  unfold Obligations.TableWordsDecode
  refine ⟨(decodeTableWord_fourcc 0x55344342#32).trans (by decide), (decodeTableWord_fourcc 0x30315844#32).trans (by decide),
    (decodeTableWord_fourcc 0x55314342#32).trans (by decide), (decodeTableWord_block 0xFAC688FAC68864C8#64).trans (by decide),
    (decodeTableWord_block 0x6DB6DB6DB6DBFF00#64).trans (by decide), rfl, rfl,
    (decodeTableWord_regacc 0x10000000005#41).trans (by decide), (decodeTableWord_regacc 0x1000000000E#41).trans (by decide),
    (decodeTableWord_regacc 0x11000000088#41).trans (by decide), (decodeTableWord_regacc 0x11C00000001#41).trans (by decide),
    (decodeTableWord_regacc 0x00400000000#41).trans (by decide), (decodeTableWord_regacc 0x00500000000#41).trans (by decide),
    rfl, rfl, rfl, rfl, rfl⟩

/-- Settles O9: a step waits, serves the host's first request, or is the decoder's visit, and each keeps the invariant. -/
theorem stepKeepsSoundness : Obligations.StepKeepsSoundness := by
  unfold Obligations.StepKeepsSoundness
  intro s t hs h
  rcases step_next_cases hs.issueEmpty h with rfl | ⟨r, rest, -, hserve, -⟩ | ⟨requests, hturn, hb⟩
  · exact hs
  · exact inv_serveHost (inv_host hs rest) hserve
  · exact inv_decoderTurn (inv_host hs requests) hb hturn

end

section
/-! PROOFS of the family 10_state: the register port access by access (O6, O18 to O22), the host's buffer accesses (O24, O26),
the state after reset (O8), and the phases a step can lead to (O12). -/

namespace Sys2Proof.Machine

/-! ## The register map -/

/-- Reserved offsets read 0 (10_state.md R50). -/
theorem portRead_reserved (s : State) {off : Byte} (h : 0x40 ≤ off.toNat) : s.portRead off = 0#32 := by
  unfold State.portRead
  split
  case h_17 => rfl
  all_goals omega

/-- Every register of the machine right after reset reads 0 (R54). -/
theorem portRead_reset (off : Byte) : State.reset.portRead off = 0#32 := by
  unfold State.portRead
  split <;> rfl

theorem tileOrderBit_tileOrderOf (b : Bool) : tileOrderBit (tileOrderOf b) = b := by cases b <;> rfl

theorem tileOrderOf_eq_rowMajor (b : Bool) : tileOrderOf b = .rowMajor ↔ b = true := by cases b <;> decide

/-- CTRL reads as its three bits, START and the reserved bits as 0 (R34, R35). -/
theorem ctrlWord_toNat (s : State) : s.ctrlWord.toNat =
    s.ctrlStrict.toNat * 2 + (if s.ctrlTileOrder = .rowMajor then 4 else 0) + s.ctrlIe.toNat * 8 := by
  unfold State.ctrlWord
  cases s.ctrlStrict <;> cases s.ctrlTileOrder <;> cases s.ctrlIe <;> rfl

/-- CTRL after a configuration reads as bits 3:1 of the word written. -/
theorem configure_ctrlWord (s : State) (wd : Word) : (s.configure wd).ctrlWord = wd &&& 0xE#32 := by
  simp only [State.ctrlWord, configure_ctrlIe, configure_ctrlTileOrder, configure_ctrlStrict, tileOrderBit_tileOrderOf]
  ext i hi
  simp only [BitVec.getElem_append, BitVec.getElem_and, BitVec.getElem_ofBool]
  interval_cases i <;> simp [BitVec.getLsbD_eq_getElem]

/-- The low word of a count or an index (R48, R49). -/
theorem lowWord_toNat (q : DWord) : (q.extractLsb' 0 32).toNat = q.toNat % 2 ^ 32 := by
  simp [BitVec.extractLsb'_toNat]

/-- The high word of a count or an index (R48, R49). -/
theorem highWord_toNat (q : DWord) : (q.extractLsb' 32 32).toNat = q.toNat / 2 ^ 32 := by
  rw [BitVec.extractLsb'_toNat, Nat.shiftRight_eq_div_pow]
  have := q.isLt
  omega

theorem zero_append_toNat {m n : Nat} (x : BitVec n) : (0#m ++ x).toNat = x.toNat := by
  simp

theorem and_registerMask_le (w : Word) (off : Byte) : (w &&& registerMask off).toNat ≤ (registerMask off).toNat := by
  rw [BitVec.toNat_and]; exact Nat.and_le_right

/-- The offsets of ERROR_CODE, ERROR_INFO and the header and result registers (20_memory.md R78). -/
theorem resultOffset_iff (off : Byte) :
    resultOffset off = true ↔ off = 0x08#8 ∨ off = 0x0C#8 ∨ (0x14 ≤ off.toNat ∧ off.toNat ≤ 0x3C) := by
  simp [resultOffset, or_assoc]

/-- CTRL, STATUS, INPUT_LEN and the reserved offsets show no result. -/
theorem resultOffset_eq_false {off : Byte} (h : off = 0x00#8 ∨ off = 0x04#8 ∨ off = 0x10#8 ∨ 0x40 ≤ off.toNat) :
    resultOffset off = false := by
  rcases h with rfl | rfl | rfl | h
  · rfl
  · rfl
  · rfl
  · rw [Bool.eq_false_iff, ne_eq, resultOffset_iff]
    rintro (rfl | rfl | ⟨-, h'⟩)
    · revert h; decide
    · revert h; decide
    · omega

/-! ## Register reads -/

/-- A register the host has spoiled shows a free value of its width (20_memory.md R78). -/
theorem readPort_spoiled {s : State} {off : Byte} (hb : s.busy = true) (hs : s.spoil ≠ .clean)
    (hr : resultOffset off = true) :
    s.readPort off = { s.drew with portData := s.drawn.extractLsb' 0 32 &&& registerMask off } := by
  unfold State.readPort
  rw [if_pos (by simp [hb, hs, hr])]

/-- BLOCK_INDEX of an operation that runs unspoiled shows a value within R49's bounds. -/
theorem readPort_blockIndex {s : State} {off : Byte} (hb : s.busy = true) (hs : s.spoil = .clean)
    (ho : off = 0x38#8 ∨ off = 0x3C#8) :
    s.readPort off =
      { s.drew with progress := s.shownIndex, portData := s.shownIndex.extractLsb' (if off = 0x38#8 then 0 else 32) 32 } := by
  unfold State.readPort
  rw [if_neg (by simp [hs]), if_pos (by simpa [hb] using ho)]

/-- Every other read returns the register of the map; STATUS acknowledges (20_memory.md R71, R76). -/
theorem readPort_register {s : State} {off : Byte}
    (h : s.busy = false ∨ (s.spoil = .clean ∧ off ≠ 0x38#8 ∧ off ≠ 0x3C#8) ∨ resultOffset off = false) :
    s.readPort off = { s with portData := s.portRead off, acked := s.acked || (off == 0x04#8 && !s.busy) } := by
  have hfree : ¬ (s.busy && s.spoil != .clean && resultOffset off) = true := by
    rcases h with h | ⟨h, -⟩ | h <;> simp [h]
  have hindex : ¬ (s.busy && (off == 0x38#8 || off == 0x3C#8)) = true := by
    rcases h with h | ⟨-, h, h'⟩ | h
    · simp [h]
    · simp [h, h']
    · have h38 : off ≠ 0x38#8 := by rintro rfl; revert h; decide
      have h3C : off ≠ 0x3C#8 := by rintro rfl; revert h; decide
      simp [h38, h3C]
  unfold State.readPort
  rw [if_neg hfree, if_neg hindex]
  split
  · next ho => simp [ho]
  · next ho => simp [ho]

theorem exec_regRead_aligned {off : Byte} (s : State) (h : off.toNat % 4 = 0) :
    exec (.regRead off) s = .next (s.readPort off) := by
  simp [exec, execRegRead, offAligned, h]

/-! ## Writes to CTRL and INPUT_LEN -/

theorem writeStart_busy {s : State} {wd : Word} (h : s.busy = true) : s.writeStart wd = s := if_pos h

theorem writeStart_idle {s : State} {wd : Word} (h : s.busy = false) : s.writeStart wd = (s.configure wd).start :=
  if_neg (by simp [h])

theorem writeConfig_busy {s : State} {wd : Word} (h : s.busy = true) : s.writeConfig wd = s := if_pos h

theorem writeConfig_idle {s : State} {wd : Word} (h : s.busy = false) : s.writeConfig wd = s.configure wd :=
  if_neg (by simp [h])

theorem writeLen_busy {s : State} {len : Word} (h : s.busy = true) : s.writeLen len = s := if_pos h

theorem writeLen_idle {s : State} {len : Word} (h : s.busy = false) :
    s.writeLen len = { s with inputLen := BitVec.ofNat 32 (min len.toNat s.inCapacity) } :=
  if_neg (by simp [h])

/-- Writes to every other offset are ignored (10_state.md R29, R35, R50). -/
theorem writePort_other (s : State) {off : Byte} (data : Word) (h : off ≠ offCtrl) (h' : off ≠ offInputLen) :
    s.writePort off data = s := by
  simp [State.writePort, h, h']

theorem exec_cmdConfig_idle {wd : Word} {s : State} (h : s.busy = false) :
    exec (.cmdConfig wd) s = .next (s.configure wd) :=
  congrArg _ (writeConfig_idle h)

theorem exec_cmdSetlen_idle {len : Word} {s : State} (h : s.busy = false) :
    exec (.cmdSetlen len) s = .next { s with inputLen := BitVec.ofNat 32 (min len.toNat s.inCapacity) } :=
  congrArg _ (writeLen_idle h)

theorem exec_regWrite_other {off : Byte} {data : Word} (s : State) (ha : off.toNat % 4 = 0) (h : off ≠ offCtrl)
    (h' : off ≠ offInputLen) : exec (.regWrite off data) s = .next s := by
  simp [exec, execRegWrite, offAligned, ha, writePort_other s data h h']

/-! ## Host accesses to the port -/

/-- A register access as the host makes it is a write or a read of its offset (R29). -/
theorem runCode_access {w : Bool} {off : Byte} {data : Word} (s : State) (ha : off.toNat % 4 = 0)
    (hr : w = false → data = 0#32) :
    runCode (.regacc (accessWord w off data)) s = .next (if w then s.writePort off data else s.readPort off) := by
  have ha' : offAligned off = true := by simp [offAligned, ha]
  simp only [runCode, decode, decodeRegacc_accessWord, ha']
  cases w with
  | false => simp [hr, exec_regRead_aligned s ha]
  | true =>
    simp only [State.writePort, if_true, Bool.true_eq_false, if_false]
    split_ifs with hctrl hstart hlen
    · rfl
    · rfl
    · rfl
    · exact exec_regWrite_other s ha hctrl hlen

/-- What a host access of 32 bits at a multiple of 4 answers. -/
theorem hostAccess_aligned {w : Bool} {off : Nat} {data : Word} (s : State) (ha : off % 4 = 0) :
    hostAccess w off 4 data s = .next (
      if 256 ≤ off then (if w then s else { s with portData := 0#32 })
      else if w then s.writePort (BitVec.ofNat 8 off) data else s.readPort (BitVec.ofNat 8 off)) := by
  unfold hostAccess
  rw [if_neg (by simp [ha])]
  split
  · rfl
  · have hoff : (BitVec.ofNat 8 off).toNat % 4 = 0 := by rw [BitVec.toNat_ofNat]; omega
    rw [runCode_access s hoff (by rintro rfl; rfl)]
    cases w <;> rfl

/-- A host access that is answered has 32 bits and is at a multiple of 4: any other is refused (20_memory.md R64). -/
theorem hostAccess_shape {w : Bool} {off bytes : Nat} {data : Word} {s t : State}
    (h : hostAccess w off bytes data s = .next t) : bytes = 4 ∧ off % 4 = 0 := by
  unfold hostAccess at h
  split at h
  · cases h
  · next hs => simpa using hs

/-- Reads of reserved offsets return 0 and change nothing else (R50). -/
theorem readPort_reserved (s : State) {off : Byte} (h : 0x40 ≤ off.toNat) : s.readPort off = { s with portData := 0#32 } := by
  have h4 : off ≠ 0x04#8 := by rintro rfl; revert h; decide
  have hr : resultOffset off = false := resultOffset_eq_false (.inr (.inr (.inr h)))
  rw [readPort_register (.inr (.inr hr)), portRead_reserved s h]
  simp [h4]

/-- A host access at or above 0x40 writes nothing and reads 0, also past the encoded eight bits (R50, log 11). -/
theorem hostAccess_reserved {w : Bool} {off : Nat} {data : Word} (s : State) (ha : off % 4 = 0) (h : 0x40 ≤ off) :
    hostAccess w off 4 data s = .next (if w then s else { s with portData := 0#32 }) := by
  rw [hostAccess_aligned s ha]
  split
  · rfl
  · have hoff : 0x40 ≤ (BitVec.ofNat 8 off).toNat := by rw [BitVec.toNat_ofNat]; omega
    have hne : ∀ r : Byte, r.toNat < 0x40 → BitVec.ofNat 8 off ≠ r := by rintro r hr rfl; omega
    rw [readPort_reserved s hoff, writePort_other s data (hne _ (by decide)) (hne _ (by decide))]

/-! ## The host's bytes of IN -/

/-- The bytes the host writes to IN read as written (20_memory.md R60). -/
theorem inByte_of_written {t : State} {m : Memory} {a : Nat} {bs : List Byte} (h : t.inMem = m.pokeAll (cellsFrom a bs))
    (k : Nat) (hk : k < bs.length) : t.inByte (a + k) = bs[k] := by
  simp only [State.inByte, h, peek_cellsFrom bs a k m hk]

/-- Every byte of IN that a host write does not reach reads as before. -/
theorem inByte_of_not_written {s t : State} {a x : Nat} {bs : List Byte} (h : t.inMem = s.inMem.pokeAll (cellsFrom a bs))
    (hr : t.resets = s.resets) (hx : x < a ∨ a + bs.length ≤ x) : t.inByte x = s.inByte x := by
  have hpeek : (s.inMem.pokeAll (cellsFrom a bs)).peek x = s.inMem.peek x :=
    peek_pokeAll_other _ _ _ fun c hc => by have := mem_cellsFrom hc; omega
  simp only [State.inByte, h, hr, hpeek]

/-- A host write to IN that no unacknowledged operation can notice changes IN alone. -/
theorem hostWriteIn_acked {s : State} {a : Nat} {bs : List Byte} (ha : a + bs.length ≤ s.inCapacity)
    (hack : s.acked = true) : s.hostWriteIn a bs = .next { s with inMem := s.inMem.pokeAll (cellsFrom a bs) } := by
  unfold State.hostWriteIn State.spoilOperation
  rw [if_neg (Nat.not_lt.2 ha), if_pos hack]

/-- Nothing of OUT is hidden from a host that has read STATUS as not BUSY (R75, R76). -/
theorem outHidden_acked {s : State} (h : s.acked = true) : s.outHidden = 0 := by simp [State.outHidden, h]

/-- A host read of OUT changes the value returned and the draws only, and is the byte where none is hidden. -/
theorem hostReadOut_cases {s : State} {a : Nat} (h : a < s.outCapacity) :
    (a < s.outHidden ∧ ∃ b, s.hostReadOut a = .next { s with outData := b, draws := s.draws + 1 }) ∨
    (s.outHidden ≤ a ∧ s.hostReadOut a = .next { s with outData := s.outByte a }) := by
  unfold State.hostReadOut
  rw [if_neg (Nat.not_le.2 h)]
  split
  · next hh => exact .inl ⟨hh, _, rfl⟩
  · next hh => exact .inr ⟨Nat.not_lt.1 hh, rfl⟩

/-! ## The sequencer's place -/

/-- The two states have the sequencer at the same place (10_state.md R25). -/
structure SamePlace (s t : State) : Prop where
  seq : t.seq = s.seq
  blockCount : t.blockCount = s.blockCount
  blockIndex : t.blockIndex = s.blockIndex

theorem SamePlace.trans {s t u : State} (h : SamePlace s t) (h' : SamePlace t u) : SamePlace s u :=
  ⟨h'.seq.trans h.seq, h'.blockCount.trans h.blockCount, h'.blockIndex.trans h.blockIndex⟩

/-- A register read leaves the sequencer at its place. -/
theorem readPort_samePlace (s : State) (off : Byte) : SamePlace s (s.readPort off) := by
  obtain ⟨p, a, d, g, h⟩ := readPort_cases s off
  rw [h]; exact ⟨rfl, rfl, rfl⟩

theorem writeConfig_samePlace (s : State) (wd : Word) : SamePlace s (s.writeConfig wd) := by
  unfold State.writeConfig; split <;> exact ⟨rfl, rfl, rfl⟩

theorem writeLen_samePlace (s : State) (len : Word) : SamePlace s (s.writeLen len) := by
  unfold State.writeLen; split <;> exact ⟨rfl, rfl, rfl⟩

/-- A register write leaves the sequencer at its place, or is a START that is accepted (41_decode_dispatch.md R150). -/
theorem writePort_place (s : State) (off : Byte) (data : Word) :
    SamePlace s (s.writePort off data) ∨
    (s.busy = false ∧ off = offCtrl ∧ data.getLsbD 0 = true ∧ (s.writePort off data).seq = .parse) := by
  unfold State.writePort
  by_cases ho : off = offCtrl
  · rw [if_pos ho]
    by_cases hd : data.getLsbD 0 = true
    · rw [if_pos hd]
      cases hb : s.busy with
      | true => rw [writeStart_busy hb]; exact .inl ⟨rfl, rfl, rfl⟩
      | false => rw [writeStart_idle hb]; exact .inr ⟨rfl, ho, hd, start_seq _⟩
    · rw [if_neg hd]
      exact .inl (writeConfig_samePlace s data)
  · rw [if_neg ho]
    split
    · exact .inl (writeLen_samePlace s data)
    · exact .inl ⟨rfl, rfl, rfl⟩

/-- A host write to IN keeps the phase, and the sequencer's place if an operation runs (20_memory.md R78). -/
theorem hostWriteIn_place {s t : State} {a : Nat} {bs : List Byte} (h : s.hostWriteIn a bs = .next t) :
    t.seq = s.seq ∧ (s.busy = true → SamePlace s t) := by
  unfold State.hostWriteIn State.spoilOperation at h
  split at h
  · cases h
  split at h
  · cases h; exact ⟨rfl, fun _ => ⟨rfl, rfl, rfl⟩⟩
  split at h
  · cases h; exact ⟨rfl, fun _ => ⟨rfl, rfl, rfl⟩⟩
  · next hb => cases h; exact ⟨spoilResults_seq _, fun hb' => absurd hb' hb⟩

/-- A host read of OUT leaves the sequencer at its place. -/
theorem hostReadOut_samePlace {s t : State} {a : Nat} (h : s.hostReadOut a = .next t) : SamePlace s t := by
  unfold State.hostReadOut at h
  split at h
  · cases h
  split at h <;> cases h <;> exact ⟨rfl, rfl, rfl⟩

/-- Serving a host event keeps the phase, and the place of an operation that runs, unless it is a reset or a START that is
accepted (10_state.md R26). -/
theorem serveHost_place {e : HostEvent} {s t : State} (h : serveHost e s = .next t) :
    (t.seq = s.seq ∧ (s.busy = true → SamePlace s t)) ∨ (t.seq = .idle ∧ e = .reset) ∨
    (s.busy = false ∧ t.seq = .parse ∧ ∃ d, e = .access true 0 4 d ∧ d.getLsbD 0 = true) := by
  cases e with
  | access write off bytes data =>
    simp only [serveHost] at h
    obtain ⟨rfl, ha⟩ := hostAccess_shape h
    rw [hostAccess_aligned s ha] at h
    cases h
    split
    · left; split <;> exact ⟨rfl, fun _ => ⟨rfl, rfl, rfl⟩⟩
    next hoff =>
    cases write with
    | false => exact .inl ⟨(readPort_samePlace s _).seq, fun _ => readPort_samePlace s _⟩
    | true =>
      rcases writePort_place s (BitVec.ofNat 8 off) data with hp | ⟨hb, ho, hd, hq⟩
      · exact .inl ⟨hp.seq, fun _ => hp⟩
      · have h0 : off = 0 := by
          have := congrArg BitVec.toNat ho
          simp only [BitVec.toNat_ofNat, offCtrl] at this
          omega
        exact .inr (.inr ⟨hb, hq, data, by rw [h0], hd⟩)
  | writeIn a bs => exact .inl (hostWriteIn_place h)
  | readOut a => exact .inl ⟨(hostReadOut_samePlace h).seq, fun _ => hostReadOut_samePlace h⟩
  | reset => cases h; exact .inr (.inl ⟨rfl, rfl⟩)

/-- Before SQ.ADVANCE the operations of a block leave the sequencer at its place, or raise an error. -/
theorem blockOp_place {i : Instr} (hi : i ∈ blockOps) (hne : i ≠ .sqAdvance) {s t : State} (h : exec i s = .next t) :
    SamePlace s t ∨ t.seq = .error := by
  rw [blockOps_eq, List.mem_cons, List.mem_append] at hi
  rcases hi with rfl | hi | hi
  · rcases exec_sqBlockFetch_cases h with rfl | ht
    · exact .inr rfl
    · rw [ht]; exact .inl ⟨rfl, rfl, rfl⟩
  · rw [exec_decompress hi h]; exact .inl ⟨rfl, rfl, rfl⟩
  · simp only [List.mem_cons, List.not_mem_nil, or_false] at hi
    rcases hi with rfl | rfl | rfl
    · rw [exec_taTilePlace_eq h]; exact .inl ⟨rfl, rfl, rfl⟩
    · rw [(exec_taTileWrite_eq h).2]; exact .inl ⟨rfl, rfl, rfl⟩
    · exact absurd rfl hne

/-- A run of a block's operations up to SQ.ADVANCE raises an error, or comes to SQ.ADVANCE at the place where it began. -/
theorem runOps_to_sqAdvance {is : List Instr} (his : ∀ i ∈ is, i ∈ blockOps ∧ i ≠ .sqAdvance) {s t : State}
    (hq : s.seq = .blocks) (h : runOps .blocks (is ++ [.sqAdvance]) s = .next t) :
    t.seq = .error ∨ ∃ u, SamePlace s u ∧ exec .sqAdvance u = .next t := by
  induction is generalizing s with
  | nil =>
    simp only [List.nil_append, runOps] at h
    split at h
    · next u hu => exact .inr ⟨s, ⟨rfl, rfl, rfl⟩, by split at h <;> cases h <;> exact hu⟩
    · cases h
    · cases h
  | cons i is ih =>
    simp only [List.cons_append, runOps] at h
    split at h
    · next u hu =>
      rcases blockOp_place (his i (by simp)).1 (his i (by simp)).2 hu with hp | he
      · have hu' : u.seq = .blocks := hp.seq.trans hq
        rw [if_pos hu'] at h
        rcases ih (fun j hj => his j (by simp [hj])) hu' h with he | ⟨v, hv, hadv⟩
        · exact .inl he
        · exact .inr ⟨v, hp.trans hv, hadv⟩
      · rw [if_neg (by simp [he])] at h
        cases h; exact .inl he
    · cases h
    · cases h

/-! ## The ways out of each phase -/

/-- The decoder's turn in PARSE leads to CHECK or ERROR (10_state.md R26). -/
theorem decoderTurn_parse {s t : State} (hs : s.Inv) (hq : s.seq = .parse) (h : decoderTurn s = .next t) :
    t.seq = .check ∨ t.seq = .error := by
  have hcap : 0x58 ≤ s.inCapacity := Nat.le_trans (by decide) hs.inCapacityLegal.1
  have hb := busy_of_seq (.inl hq)
  cases hsp : s.spoil with
  | clean =>
    rw [decoderTurn_clean hsp, visit_parse hq hcap] at h
    cases h
    unfold State.afterParse
    split_ifs <;> simp
  | running =>
    rw [decoderTurn_running hsp] at h
    cases h
    rcases spoiledVisit_cases hb with h | ⟨-, h⟩ | ⟨hq', -⟩ | ⟨hq', -⟩
    · exact .inr (by rw [h]; rfl)
    · exact .inl (by rw [h]; rfl)
    · simp [hq] at hq'
    · simp [hq] at hq'
  | ended => exact absurd (hs.endedStopped hsp) (by simp [hq])

/-- The decoder's turn in CHECK leads to BLOCKS with `t = 0`, to DONE, or to ERROR (R26; 41_decode_dispatch.md R157). -/
theorem decoderTurn_check {s t : State} (hs : s.Inv) (hq : s.seq = .check) (h : decoderTurn s = .next t) :
    (t.seq = .blocks ∧ t.blockIndex = 0#64) ∨ (t.seq = .done ∧ (s.spoil = .clean → t.blockCount = 0#64)) ∨
    t.seq = .error := by
  have hcap : 0x58 ≤ s.inCapacity := Nat.le_trans (by decide) hs.inCapacityLegal.1
  have hb := busy_of_seq (.inr (.inl hq))
  cases hsp : s.spoil with
  | clean =>
    rw [decoderTurn_clean hsp, visit_check hq hcap] at h
    cases h
    unfold State.afterCheck
    split_ifs with hcode hal hp h0
    · exact .inr (.inr rfl)
    · exact .inr (.inr rfl)
    · exact .inr (.inr rfl)
    · exact .inr (.inl ⟨rfl, fun _ => h0⟩)
    · exact .inl ⟨rfl, rfl⟩
  | running =>
    rw [decoderTurn_running hsp] at h
    cases h
    rcases spoiledVisit_cases hb with h | ⟨hq', -⟩ | ⟨-, h | ⟨n, -, -, h⟩⟩ | ⟨hq', -⟩
    · exact .inr (.inr (by rw [h]; rfl))
    · simp [hq] at hq'
    · exact .inr (.inl ⟨by rw [h]; rfl, nofun⟩)
    · exact .inl (by rw [h]; exact ⟨rfl, rfl⟩)
    · simp [hq] at hq'
  | ended => exact absurd (hs.endedStopped hsp) (by simp [hq])

/-- The decoder's turn in BLOCKS takes `t` up by one below the same `N`, or leads to DONE with `t = N`, or to ERROR (R26;
41_decode_dispatch.md R163). -/
theorem decoderTurn_blocks {s t : State} (hs : s.Inv) (hq : s.seq = .blocks) (h : decoderTurn s = .next t) :
    (t.seq = .blocks ∧ t.blockCount = s.blockCount ∧ t.blockIndex = s.blockIndex + 1#64) ∨
    (t.seq = .done ∧ s.blockIndex + 1#64 = s.blockCount ∧
      (s.spoil = .clean → t.blockIndex = t.blockCount ∧ t.blockCount = s.blockCount)) ∨
    t.seq = .error := by
  have hb := busy_of_seq (.inr (.inr hq))
  cases hsp : s.spoil with
  | clean =>
    rw [decoderTurn_clean hsp, visit_block hq] at h
    have hplace : SamePlace s s.nextLane := by rw [nextLane_eq]; exact ⟨rfl, rfl, rfl⟩
    have hfront : ∀ i ∈ blockOps.dropLast, i ∈ blockOps ∧ i ≠ .sqAdvance := by decide
    rcases runOps_to_sqAdvance (is := blockOps.dropLast) hfront (hplace.seq.trans hq) h with he | ⟨u, hu, hadv⟩
    · exact .inr (.inr he)
    obtain ⟨hseq, hcount, hindex⟩ := hplace.trans hu
    rcases exec_sqAdvance_cases hadv with ⟨hlast, rfl⟩ | ⟨-, rfl⟩
    · rw [hindex, hcount] at hlast
      refine .inr (.inl ⟨rfl, hlast, fun _ => ⟨?_, hcount⟩⟩)
      show u.blockIndex + 1#64 = u.blockCount
      rw [hindex, hcount, hlast]
    · exact .inl ⟨hseq.trans hq, hcount, congrArg (· + 1#64) hindex⟩
  | running =>
    rw [decoderTurn_running hsp] at h
    cases h
    rcases spoiledVisit_cases hb with h | ⟨hq', -⟩ | ⟨hq', -⟩ | ⟨-, ⟨hlast, h⟩ | ⟨-, l, ls, h, -⟩⟩
    · exact .inr (.inr (by rw [h]; rfl))
    · simp [hq] at hq'
    · simp [hq] at hq'
    · exact .inr (.inl ⟨by rw [h]; rfl, hlast, nofun⟩)
    · exact .inl (by rw [h]; exact ⟨hq, rfl, rfl⟩)
  | ended => exact absurd (hs.endedStopped hsp) (by simp [hq])

/-- In phase BLOCKS of a sound state `t < N < 2^60` (10_state.md R48, R49). -/
theorem inv_blocks_bounds {s : State} (hs : s.Inv) (hq : s.seq = .blocks) :
    s.blockIndex.toNat < s.blockCount.toNat ∧ s.blockCount.toNat < 2 ^ 60 := by
  have h := walkSound_of_inv hs (busy_of_seq (.inr (.inr hq)))
  simpa only [State.walkSound, hq] using h

end Sys2Proof.Machine

open Sys2Proof Sys2Proof.Machine

/-- Settles O12: a step serves the host's first request or is the decoder's turn, whose ways out of each phase are R26's;
the bounds of `t` and `N` are those of the sound state it leads to. -/
theorem phasesFollowTheSequencer : Obligations.PhasesFollowTheSequencer := by
  unfold Obligations.PhasesFollowTheSequencer
  intro s t hs h
  have ht : t.Inv := stepKeepsSoundness s t hs h
  rcases step_next_cases hs.issueEmpty h with rfl | ⟨r, rest, hhost, hserve, -⟩ | ⟨requests, hturn, hb⟩
  · exact .inl ⟨rfl, fun hq => ⟨rfl, .inl rfl, (inv_blocks_bounds hs hq).1⟩⟩
  · have hhead : r ∈ s.host.head? := by simp [hhost]
    rcases serveHost_place hserve with ⟨hseq, hplace⟩ | ⟨hseq, hreset⟩ | ⟨hb, hseq, d, hstart, hd⟩
    · refine .inl ⟨hseq, fun hq => ?_⟩
      have hp := hplace (busy_of_seq (.inr (.inr hq)))
      exact ⟨hp.blockCount, .inl hp.blockIndex, (inv_blocks_bounds ht (hseq.trans hq)).1⟩
    · exact .inr (.inl ⟨hseq, r, hhead, hreset⟩)
    · exact .inr (.inr (.inl ⟨hb, hseq, r, hhead, d, hstart, hd⟩))
  · have hs' := inv_host hs requests
    rcases busy_iff.1 hb with hq | hq | hq
    · exact .inr (.inr (.inr (.inl ⟨hq, decoderTurn_parse hs' hq hturn⟩)))
    · refine .inr (.inr (.inr (.inr (.inl ⟨hq, ?_⟩))))
      rcases decoderTurn_check hs' hq hturn with ⟨hseq, hindex⟩ | hend
      · obtain ⟨hlt, hbound⟩ := inv_blocks_bounds ht hseq
        exact .inl ⟨hseq, hindex, by rintro h0; simp [h0] at hlt, hbound⟩
      · exact .inr hend
    · rcases decoderTurn_blocks hs' hq hturn with ⟨hseq, hcount, hindex⟩ | hend
      · exact .inl ⟨hseq.trans hq.symm, fun _ => ⟨hcount, .inr hindex, (inv_blocks_bounds ht hseq).1⟩⟩
      · exact .inr (.inr (.inr (.inr (.inr ⟨hq, hend⟩))))

/-- Settles O21: a read whose value is specified is the register of the map, and reserved offsets read 0. -/
theorem readsReturnTheRegisterMap : Obligations.ReadsReturnTheRegisterMap := by
  unfold Obligations.ReadsReturnTheRegisterMap
  refine ⟨fun off s ha hfree => ?_, fun s r rest off data hi hh hr he ha hoff => ?_⟩
  · have hread := (exec_regRead_aligned s ha).trans
      (congrArg _ (readPort_register (hfree.imp_right .inl)))
    refine ⟨_, hread, rfl, rfl, ?ctrl, ?status, ?code, ?info, ?len, ?magic, ?size, ?height, ?width, ?fourcc, ?dx10,
      ?offset, ?countLow, ?countHigh, ?indexLow, ?indexHigh, portRead_reserved s⟩ <;> rintro rfl
    case ctrl => exact ctrlWord_toNat s
    case status => exact (zero_append_toNat _).trans (by cases s.seq <;> rfl)
    case code => exact zero_append_toNat _
    case dx10 => exact (zero_append_toNat _).trans (BitVec.toNat_ofBool _)
    case countLow | indexLow => exact lowWord_toNat _
    case countHigh | indexHigh => exact highWord_toNat _
    all_goals rfl
  · rw [step_host hi hh hr, he]
    exact hostAccess_reserved _ ha hoff

/-- Settles O22: BLOCK_INDEX is drawn within its bounds, the operation's registers within their masks. -/
theorem busyReadsAreFreeWithinBounds : Obligations.BusyReadsAreFreeWithinBounds := by
  unfold Obligations.BusyReadsAreFreeWithinBounds
  refine ⟨fun off s ho hb hsp hle => ?_, fun off s ha hb hsp => ?_⟩
  · have ha : off.toNat % 4 = 0 := by rcases ho with rfl | rfl <;> rfl
    have hbounds := shownIndex_bounds hle
    refine ⟨_, (exec_regRead_aligned s ha).trans (congrArg _ (readPort_blockIndex hb hsp ho)), hbounds.1, hbounds.2, ?_, rfl⟩
    rcases ho with rfl | rfl
    · exact lowWord_toNat _
    · exact highWord_toNat _
  · refine ⟨_, exec_regRead_aligned s ha, fun ho => ?_, fun ho => ?_⟩
    · rw [readPort_spoiled hb hsp ((resultOffset_iff off).2 ho)]
      have hmask := and_registerMask_le (s.drawn.extractLsb' 0 32) off
      refine ⟨rfl, ?_, ?_⟩ <;> rintro rfl <;> exact Nat.lt_of_le_of_lt hmask (by decide)
    · rw [readPort_register (.inr (.inr (resultOffset_eq_false ho)))]
      exact ⟨rfl, by simp [hb]⟩

/-- Settles O24: the bytes land in IN, and an acknowledged operation notices nothing. -/
theorem hostWritesLandInIn : Obligations.HostWritesLandInIn := by
  unfold Obligations.HostWritesLandInIn
  intro s r rest a bs hi hh hr he ha hack
  have hstep : step s = State.hostWriteIn { s with host := rest } a bs := by rw [step_host hi hh hr, he]; rfl
  exact ⟨_, hstep.trans (hostWriteIn_acked ha hack), inByte_of_written rfl, fun _ => inByte_of_not_written rfl rfl, rfl⟩

/-- Settles O26: nothing of OUT is hidden from a host that has read STATUS as not BUSY. -/
theorem hostReadsOut : Obligations.HostReadsOut := by
  unfold Obligations.HostReadsOut
  intro s r rest a hi hh hr he ha
  have hstep : step s = State.hostReadOut { s with host := rest } a := by rw [step_host hi hh hr, he]; rfl
  rcases hostReadOut_cases (s := { s with host := rest }) ha with ⟨hhid, b, hread⟩ | ⟨-, hread⟩
  · refine ⟨_, hstep.trans hread, fun hack => ?_, rfl⟩
    rw [outHidden_acked (by exact hack)] at hhid
    omega
  · exact ⟨_, hstep.trans hread, fun _ => ⟨rfl, rfl⟩, rfl⟩

/-- Settles O6: the map of the state after reset holds 0 at every offset, and its buffers list no byte. -/
theorem resetLeavesRegistersZero : Obligations.ResetLeavesRegistersZero :=
  ⟨rfl, portRead_reset, rfl, fun _ => ⟨rfl, rfl⟩⟩

/-- Settles O8: the state after reset is idle, with nothing listed, counted, spoiled or read. -/
theorem resetIsSound : Obligations.ResetIsSound where
  inCapacityLegal := by decide
  outCapacityLegal := by decide
  inCanonical := rfl
  inExists _ _ := rfl
  outCanonical := rfl
  outExists _ _ := rfl
  lenFits := Nat.zero_le _
  opLenFits := Nat.zero_le _
  issueEmpty := rfl
  busyUnacked := nofun
  shownBound := nofun
  spoiledWalks := nofun
  endedStopped := nofun
  codeZero _ _ := ⟨rfl, rfl⟩
  sound _ := ⟨⟨rfl, rfl, rfl, rfl, rfl, rfl, rfl, rfl, rfl, rfl, rfl⟩, rfl⟩

/-- Settles O18: a configuration stores the word's bits 1, 2 and 3, and CTRL reads as them. -/
theorem configWritesControlBits : Obligations.ConfigWritesControlBits := by
  unfold Obligations.ConfigWritesControlBits
  refine ⟨fun wd s hb => congrArg _ (writeConfig_busy hb), fun wd s hb => ?_⟩
  exact ⟨_, exec_cmdConfig_idle hb, rfl, tileOrderOf_eq_rowMajor _, rfl, configure_ctrlWord s wd, rfl⟩

/-- Settles O19: the smaller of the word and IN_CAPACITY fits 32 bits, so INPUT_LEN holds it. -/
theorem setLengthClamps : Obligations.SetLengthClamps := by
  unfold Obligations.SetLengthClamps
  refine ⟨fun len s hb => congrArg _ (writeLen_busy hb), fun len s hb => ?_⟩
  refine ⟨_, exec_cmdSetlen_idle hb, ?_, rfl, rfl⟩
  have hlen := len.isLt
  show (BitVec.ofNat 32 (min len.toNat s.inCapacity)).toNat = _
  rw [BitVec.toNat_ofNat, Nat.mod_eq_of_lt (by omega)]

/-- Settles O20: an offset that is neither CTRL's nor INPUT_LEN's is ignored, as one of the encoded offsets and past them. -/
theorem otherWritesAreIgnored : Obligations.OtherWritesAreIgnored := by
  unfold Obligations.OtherWritesAreIgnored
  refine ⟨fun off data s ha hctrl hlen => ?_, fun s r rest off data hi hh hr he ha hoff => ?_⟩
  · exact exec_regWrite_other s ha hctrl hlen
  · rw [step_host hi hh hr, he]
    exact hostAccess_reserved _ ha hoff

end

section
/-! PROOFS of the family 20_memory: what every operation and step leaves of the buffers and the parameters (O11, O14, O15), an
operation under which the host wrote IN (O25), and the accesses that are refused or fault (O23, O27). -/

namespace Sys2Proof.Machine

/-! ## Every step keeps the buffers -/

/-- `t` has buffers in canonical form that list only addresses that exist (20_memory.md R60, R61, R73), and the parameters of
`s` (00_scope.md R5). -/
structure KeptBuffers (s t : State) : Prop where
  inCanonical : t.inMem.wf = true
  outCanonical : t.outMem.wf = true
  inExists : t.inMem.below t.inCapacity
  outExists : t.outMem.below t.outCapacity
  inCapacity : t.inCapacity = s.inCapacity
  outCapacity : t.outCapacity = s.outCapacity
  lanes : t.lanes = s.lanes

/-- An update that keeps the parameters and IN keeps the buffers if it leaves OUT canonical and below its capacity. -/
theorem KeptBuffers.outUpdate {s u v : State} (h : KeptBuffers s u) (hin : v.inMem = u.inMem)
    (hic : v.inCapacity = u.inCapacity) (hoc : v.outCapacity = u.outCapacity) (hl : v.lanes = u.lanes)
    (hwf : v.outMem.wf = true) (hex : v.outMem.below u.outCapacity) : KeptBuffers s v where
  inCanonical := hin ▸ h.inCanonical
  outCanonical := hwf
  inExists := by rw [hin, hic]; exact h.inExists
  outExists := by rw [hoc]; exact hex
  inCapacity := hic.trans h.inCapacity
  outCapacity := hoc.trans h.outCapacity
  lanes := hl.trans h.lanes

/-- An update that leaves both buffers and the parameters as they were. -/
theorem KeptBuffers.same {s u v : State} (h : KeptBuffers s u) (hin : v.inMem = u.inMem) (hout : v.outMem = u.outMem)
    (hic : v.inCapacity = u.inCapacity) (hoc : v.outCapacity = u.outCapacity) (hl : v.lanes = u.lanes) : KeptBuffers s v :=
  h.outUpdate hin hic hoc hl (hout ▸ h.outCanonical) (hout ▸ h.outExists)

/-- An update under which bytes of OUT lose their values (20_memory.md R78, 60_exceptions.md R231). -/
theorem KeptBuffers.outForgotten {s u v : State} (h : KeptBuffers s u) {bound : Nat} (hin : v.inMem = u.inMem)
    (hout : v.outMem = u.outMem.forget bound) (hic : v.inCapacity = u.inCapacity) (hoc : v.outCapacity = u.outCapacity)
    (hl : v.lanes = u.lanes) : KeptBuffers s v :=
  h.outUpdate hin hic hoc hl (hout ▸ forget_wf bound h.outCanonical) (hout ▸ below_forget bound h.outExists)

/-- Every operation keeps the buffers: OUT stays, loses the PixelArray, or takes a tile at addresses that exist. -/
theorem KeptBuffers.exec {s u v : State} {i : Instr} (h : KeptBuffers s u) (he : exec i u = .next v) : KeptBuffers s v := by
  obtain ⟨hin, -, hic, hoc, hl, hout⟩ := exec_bufferFrame he
  rcases hout with ⟨hout, -⟩ | ⟨-, hout, -⟩ | ⟨-, hcells, hout, -⟩
  · exact h.same hin hout hic hoc hl
  · exact h.outForgotten hin hout hic hoc hl
  · exact h.outUpdate hin hic hoc hl (hout ▸ pokeAll_wf _ h.outCanonical) (hout ▸ below_pokeAll _ h.outExists hcells)

theorem KeptBuffers.runCode {s u v : State} {c : Code} (h : KeptBuffers s u) (hr : runCode c u = .next v) :
    KeptBuffers s v := by
  unfold Machine.runCode at hr
  split at hr
  · exact h.exec hr
  · cases hr

/-- A visit changes lanes and runs operations. -/
theorem KeptBuffers.decoderVisit {s u v : State} (h : KeptBuffers s u) (hv : decoderVisit u = .next v) :
    KeptBuffers s v := by
  have henter : KeptBuffers s u.enterVisit := by
    have hl := enterVisit_lanes u
    rw [enterVisit_eq] at hl ⊢
    exact h.same rfl rfl rfl rfl hl
  exact runOps_induction henter (fun _ _ _ _ hk he => hk.exec he) (fun _ hk => hk.same rfl rfl rfl rfl rfl) hv

theorem KeptBuffers.spoiledVisit {s u : State} (h : KeptBuffers s u) (hb : u.busy = true) :
    KeptBuffers s u.spoiledVisit := by
  have hf := spoiledVisit_frame hb
  rcases hf.outMem with hout | ⟨-, hout⟩
  · exact h.same hf.inMem hout hf.inCapacity hf.outCapacity hf.lanes
  · exact h.outForgotten hf.inMem hout hf.inCapacity hf.outCapacity hf.lanes

theorem KeptBuffers.decoderTurn {s u v : State} (h : KeptBuffers s u) (hb : u.busy = true)
    (hv : decoderTurn u = .next v) : KeptBuffers s v := by
  unfold Machine.decoderTurn at hv
  split at hv
  · cases hv; exact h.spoiledVisit hb
  · exact h.decoderVisit hv
  · exact h.decoderVisit hv

/-- What a host write to IN does to the operation leaves IN alone, and makes all of OUT UNSPECIFIED at most (R78). -/
theorem KeptBuffers.spoilOperation {s u : State} (h : KeptBuffers s u) : KeptBuffers s u.spoilOperation := by
  unfold State.spoilOperation
  split
  · exact h
  split
  · exact h.same rfl rfl rfl rfl rfl
  · exact h.outForgotten (spoilResults_inMem u) (spoilResults_outMem u) (spoilResults_inCapacity u)
      (spoilResults_outCapacity u) (congrArg (·.length + 1) (spoilResults_otherLanes u))

/-- A host write to IN that is answered is one to addresses that exist. -/
theorem KeptBuffers.hostWriteIn {s u v : State} {a : Nat} {bs : List Byte} (h : KeptBuffers s u)
    (hv : u.hostWriteIn a bs = .next v) : KeptBuffers s v := by
  unfold State.hostWriteIn at hv
  split at hv
  · cases hv
  next hcap =>
  cases hv
  have hcells : ∀ c ∈ cellsFrom a bs, c.1 < u.inCapacity := fun c hc => by have := mem_cellsFrom hc; omega
  exact KeptBuffers.spoilOperation { h with
    inCanonical := pokeAll_wf _ h.inCanonical
    inExists := below_pokeAll _ h.inExists hcells }

theorem KeptBuffers.hostReadOut {s u v : State} {a : Nat} (h : KeptBuffers s u) (hv : u.hostReadOut a = .next v) :
    KeptBuffers s v := by
  unfold State.hostReadOut at hv
  split at hv
  · cases hv
  split at hv <;> cases hv <;> exact h.same rfl rfl rfl rfl rfl

theorem KeptBuffers.hostAccess {s u v : State} {w : Bool} {off bytes : Nat} {data : Word} (h : KeptBuffers s u)
    (hv : hostAccess w off bytes data u = .next v) : KeptBuffers s v := by
  unfold Machine.hostAccess at hv
  split at hv
  · cases hv
  split at hv
  · cases hv
    split
    · exact h
    · exact h.same rfl rfl rfl rfl rfl
  · exact h.runCode hv

/-- The reset input empties both buffers and keeps the parameters (70_reset_and_hazards.md R261, log 25). -/
theorem KeptBuffers.afterReset {s u : State} (h : KeptBuffers s u) : KeptBuffers s u.afterReset where
  inCanonical := rfl
  outCanonical := rfl
  inExists := below_nil _
  outExists := below_nil _
  inCapacity := h.inCapacity
  outCapacity := h.outCapacity
  lanes := (afterReset_lanes u).trans h.lanes

theorem KeptBuffers.serveHost {s u v : State} {e : HostEvent} (h : KeptBuffers s u) (hv : serveHost e u = .next v) :
    KeptBuffers s v := by
  cases e with
  | access w off bytes data => exact h.hostAccess hv
  | writeIn a bs => exact h.hostWriteIn hv
  | readOut a => exact h.hostReadOut hv
  | reset => cases hv; exact h.afterReset

/-- A step runs the operation handed in, waits, serves the host, or is the decoder's turn; each keeps the buffers. -/
theorem KeptBuffers.step {s u v : State} (h : KeptBuffers s u) (hv : step u = .next v) : KeptBuffers s v := by
  cases hi : u.issue with
  | some c =>
    rw [step_issue hi] at hv
    exact (h.same (v := { u with issue := none }) rfl rfl rfl rfl rfl).runCode hv
  | none =>
    have hhost : ∀ q, KeptBuffers s { u with host := q } := fun _ => h.same rfl rfl rfl rfl rfl
    rcases step_next_cases hi hv with rfl | ⟨r, rest, -, hserve, -⟩ | ⟨requests, hturn, hb⟩
    · exact h
    · exact (hhost rest).serveHost hserve
    · exact (hhost requests).decoderTurn hb hturn

/-! ## What an operation leaves of the bytes -/

/-- A byte of IN is what the buffer lists and the resets say (10_state.md R52). -/
theorem inByte_congr {s t : State} (hm : t.inMem = s.inMem) (hr : t.resets = s.resets) : t.inByte = s.inByte := by
  funext a
  simp only [State.inByte, hm, hr]

/-- A byte of OUT is what the buffer lists, its losses and the resets say (10_state.md R53). -/
theorem outByte_congr {s t : State} (hm : t.outMem = s.outMem) (hl : t.outScrambles = s.outScrambles)
    (hr : t.resets = s.resets) : t.outByte = s.outByte := by
  funext a
  simp only [State.outByte, State.outLosses, hm, hl, hr]

/-! ## The operation under which the host wrote IN -/

/-- A host write to IN under an operation that runs marks it and changes nothing else (20_memory.md R78). -/
theorem hostWriteIn_busy {s : State} {a : Nat} {bs : List Byte} (ha : a + bs.length ≤ s.inCapacity)
    (hack : s.acked = false) (hb : s.busy = true) :
    s.hostWriteIn a bs = .next { s with inMem := s.inMem.pokeAll (cellsFrom a bs), spoil := .running } := by
  unfold State.hostWriteIn State.spoilOperation
  rw [if_neg (Nat.not_lt.2 ha), if_neg (by simp [hack]), if_pos (by exact hb)]

/-- A host write to IN after the end and before the host has read STATUS makes the results UNSPECIFIED
(70_reset_and_hazards.md R270). -/
theorem hostWriteIn_stopped {s : State} {a : Nat} {bs : List Byte} (ha : a + bs.length ≤ s.inCapacity)
    (hack : s.acked = false) (hb : s.busy = false) :
    s.hostWriteIn a bs = .next { s with inMem := s.inMem.pokeAll (cellsFrom a bs) }.spoilResults := by
  unfold State.hostWriteIn State.spoilOperation
  have hb' : ¬ s.busy = true := by simp [hb]
  rw [if_neg (Nat.not_lt.2 ha), if_neg (by simp [hack]), if_neg (by exact hb')]

/-- A step of the sequencer from `s` to `t` in an operation under which the host wrote IN: the next phase of R26, the next
block, the end, or an error. -/
def SpoiledAdvance (s t : State) : Prop :=
  (t.seq = .error ∧ t.spoil = .ended) ∨
  (t.spoil = .running ∧ s.seq = .parse ∧ t.seq = .check ∧ t.blockCount = s.blockCount ∧ t.blockIndex = s.blockIndex) ∨
  (t.spoil = .running ∧ s.seq = .check ∧ t.seq = .blocks ∧ t.blockIndex = 0#64 ∧ t.blockCount ≠ 0#64 ∧
    t.blockCount.toNat < 2 ^ 60) ∨
  (t.spoil = .ended ∧ s.seq = .check ∧ t.seq = .done) ∨
  (t.spoil = .running ∧ s.seq = .blocks ∧ t.seq = .blocks ∧ s.blockIndex + 1#64 ≠ s.blockCount ∧
    t.blockIndex = s.blockIndex + 1#64 ∧ t.blockCount = s.blockCount) ∨
  (t.spoil = .ended ∧ s.seq = .blocks ∧ t.seq = .done ∧ s.blockIndex + 1#64 = s.blockCount)

theorem spoiledVisit_advance {s : State} (hb : s.busy = true) (hs : s.spoil = .running) :
    SpoiledAdvance s s.spoiledVisit := by
  rcases spoiledVisit_cases hb with h | ⟨hq, h⟩ | ⟨hq, h | ⟨n, hn, hlt, h⟩⟩ | ⟨hq, ⟨hlast, h⟩ | ⟨hmore, l, ls, h, -⟩⟩ <;>
    rw [h]
  · exact .inl ⟨rfl, rfl⟩
  · exact .inr (.inl ⟨hs, hq, rfl, rfl, rfl⟩)
  · exact .inr (.inr (.inr (.inl ⟨rfl, hq, rfl⟩)))
  · exact .inr (.inr (.inl ⟨hs, hq, rfl, rfl, hn, hlt⟩))
  · exact .inr (.inr (.inr (.inr (.inr ⟨rfl, hq, rfl, hlast⟩))))
  · exact .inr (.inr (.inr (.inr (.inl ⟨hs, hq, hq, hmore, rfl, rfl⟩))))

/-- The visit that ends the operation leaves no byte of OUT a definite value (20_memory.md R78). -/
theorem spoiledVisit_outMem {s : State} (hb : s.busy = true) (hs : s.spoil = .running)
    (he : s.spoiledVisit.spoil = .ended) : s.spoiledVisit.outMem = s.outMem.forget s.outCapacity := by
  have hne : s.spoil ≠ .ended := by simp [hs]
  rcases spoiledVisit_cases hb with h | ⟨-, h⟩ | ⟨-, h | ⟨n, -, -, h⟩⟩ | ⟨-, ⟨-, h⟩ | ⟨-, l, ls, h, -⟩⟩ <;> rw [h] at he ⊢
  · rfl
  · exact absurd he hne
  · rfl
  · exact absurd he hne
  · rfl
  · exact absurd he hne

/-- How many visits an operation under which the host wrote IN can still make: N is below `2^60` (10_state.md R48). -/
def State.visitsLeft (s : State) : Nat :=
  match s.seq with
  | .parse => 2 ^ 60 + 1
  | .check => 2 ^ 60
  | .blocks => s.blockCount.toNat - s.blockIndex.toNat
  | .idle | .done | .error => 0

theorem visitsLeft_parse {s : State} (h : s.seq = .parse) : s.visitsLeft = 2 ^ 60 + 1 := by simp only [State.visitsLeft, h]

theorem visitsLeft_check {s : State} (h : s.seq = .check) : s.visitsLeft = 2 ^ 60 := by simp only [State.visitsLeft, h]

theorem visitsLeft_blocks {s : State} (h : s.seq = .blocks) :
    s.visitsLeft = s.blockCount.toNat - s.blockIndex.toNat := by simp only [State.visitsLeft, h]

/-- An operation that runs has a visit left. -/
theorem visitsLeft_pos {s : State} (hs : s.Inv) (hb : s.busy = true) : 0 < s.visitsLeft := by
  rcases busy_iff.1 hb with hq | hq | hq
  · simp [visitsLeft_parse hq]
  · simp [visitsLeft_check hq]
  · rw [visitsLeft_blocks hq]
    exact Nat.sub_pos_of_lt (inv_blocks_bounds hs hq).1

/-- Each step of the sequencer ends the operation or brings its end nearer. -/
theorem SpoiledAdvance.ends_or_nearer {s t : State} (h : SpoiledAdvance s t)
    (hlt : s.seq = .blocks → s.blockIndex.toNat < s.blockCount.toNat) :
    (t.spoil = .ended ∧ (t.seq = .done ∨ t.seq = .error)) ∨ (t.spoil = .running ∧ t.visitsLeft < s.visitsLeft) := by
  rcases h with ⟨hq, he⟩ | ⟨hr, hs, ht, -⟩ | ⟨hr, hs, ht, hindex, -, hbound⟩ | ⟨he, -, hq⟩ |
    ⟨hr, hs, ht, hmore, hindex, hcount⟩ | ⟨he, -, hq, -⟩
  · exact .inl ⟨he, .inr hq⟩
  · exact .inr ⟨hr, by rw [visitsLeft_parse hs, visitsLeft_check ht]; omega⟩
  · exact .inr ⟨hr, by rw [visitsLeft_check hs, visitsLeft_blocks ht]; omega⟩
  · exact .inl ⟨he, .inl hq⟩
  · refine .inr ⟨hr, ?_⟩
    have hlt := hlt hs
    have hup := succ_toNat_lt hlt hmore
    rw [visitsLeft_blocks hs, visitsLeft_blocks ht, hindex, hcount]
    bv_omega
  · exact .inl ⟨he, .inl hq⟩

/-- The host's requests with one decoder turn passed (log 2). -/
def oneTurnPassed : List Request → List Request
  | [] => []
  | r :: rest => { r with wait := r.wait - 1 } :: rest

theorem undisturbed_oneTurnPassed {s t : State} {n : Nat} (h : s.Undisturbed (n + 1)) (ht : t.host = oneTurnPassed s.host) :
    t.Undisturbed n := by
  unfold State.Undisturbed at h ⊢
  rw [ht]
  cases hh : s.host with
  | nil => exact nofun
  | cons r rest =>
    rintro _ ⟨⟩
    exact Nat.le_sub_of_add_le (h r (by simp [hh]))

/-- A step under which no host request falls due is the next visit of the spoiled operation. -/
theorem step_spoiled {s : State} (hi : s.issue = none) (hu : s.Undisturbed 1) (hb : s.busy = true)
    (hs : s.spoil = .running) :
    step s = .next ({ s with host := oneTurnPassed s.host } : State).spoiledVisit := by
  cases hh : s.host with
  | nil => rw [step_turn hi hh hb, decoderTurn_running hs]; simp only [oneTurnPassed, ← hh]
  | cons r rest =>
    have hr : 1 ≤ r.wait := hu r (by simp [hh])
    rw [step_host_waits hi hh hb (by omega)]
    exact decoderTurn_running hs

/-- What is left when an operation under which the host wrote IN has ended: DONE or ERROR, no definite byte of OUT, and IN, the
length and the interrupt enable as they were. -/
structure SpoiledEnd (s t : State) : Prop where
  stopped : t.seq = .done ∨ t.seq = .error
  ended : t.spoil = .ended
  outLost : ∀ x, x < s.outCapacity → t.outMem.peek x = none
  inMem : t.inMem = s.inMem
  inputLen : t.inputLen = s.inputLen
  ctrlIe : t.ctrlIe = s.ctrlIe

/-- The end of an operation from `u` is its end from `s`, if what the two states hold alike is what the end speaks of. -/
theorem SpoiledEnd.of_same {s u t : State} (h : SpoiledEnd u t) (hoc : u.outCapacity = s.outCapacity)
    (hin : u.inMem = s.inMem) (hlen : u.inputLen = s.inputLen) (hie : u.ctrlIe = s.ctrlIe) : SpoiledEnd s t where
  stopped := h.stopped
  ended := h.ended
  outLost := hoc ▸ h.outLost
  inMem := h.inMem.trans hin
  inputLen := h.inputLen.trans hlen
  ctrlIe := h.ctrlIe.trans hie

/-- A spoiled operation ends within the visits it has left, if the host's requests wait that long. -/
theorem spoiled_runs_to_end (n : Nat) {s : State} (hs : s.Inv) (hu : s.Undisturbed n) (hsp : s.spoil = .running)
    (hn : s.visitsLeft ≤ n) : ∃ k t, k ≤ n ∧ s.Runs k t ∧ SpoiledEnd s t := by
  induction n generalizing s with
  | zero =>
    have hpos := visitsLeft_pos hs (hs.spoiledWalks hsp).1
    omega
  | succ n ih =>
    have hb : s.busy = true := (hs.spoiledWalks hsp).1
    have hu1 : s.Undisturbed 1 := fun r hr => Nat.le_trans (by omega) (hu r hr)
    have hstep := step_spoiled hs.issueEmpty hu1 hb hsp
    have hf := spoiledVisit_frame (s := { s with host := oneTurnPassed s.host }) hb
    have hadv := spoiledVisit_advance (s := { s with host := oneTurnPassed s.host }) hb hsp
    rcases hadv.ends_or_nearer fun hq => (inv_blocks_bounds hs hq).1 with ⟨hend, hstop⟩ | ⟨hrun, hnear⟩
    · refine ⟨1, _, by omega, runs_one hstep, hstop, hend, fun x hx => ?_, hf.inMem, hf.inputLen, hf.ctrlIe⟩
      rw [spoiledVisit_outMem (by exact hb) (by exact hsp) hend, peek_forget, if_pos (by exact hx)]
    · have hnear : _ < s.visitsLeft := hnear
      obtain ⟨k, t, hk, hruns, ht⟩ := ih (stepKeepsSoundness _ _ hs hstep) (undisturbed_oneTurnPassed hu hf.host) hrun
        (by omega)
      exact ⟨1 + k, t, by omega, runs_add (runs_one hstep) hruns,
        ht.of_same hf.outCapacity hf.inMem hf.inputLen hf.ctrlIe⟩

end Sys2Proof.Machine

open Sys2Proof Sys2Proof.Machine

/-- Settles O11: a step keeps the buffers canonical and below their capacities, and the parameters. -/
theorem stepKeepsBuffers : Obligations.StepKeepsBuffers := by
  unfold Obligations.StepKeepsBuffers
  intro s t hin hout hin' hout' h
  have hs : KeptBuffers s s := ⟨hin, hout, hin', hout', rfl, rfl, rfl⟩
  have ht := hs.step h
  exact ⟨ht.inCanonical, ht.outCanonical, ht.inExists, ht.outExists, ht.inCapacity, ht.outCapacity, ht.lanes⟩

/-- Settles O14: no operation changes the list of IN's definite bytes or counts a reset. -/
theorem noOperationWritesIn : Obligations.NoOperationWritesIn := by
  unfold Obligations.NoOperationWritesIn
  intro i s t h a
  have hf := exec_bufferFrame h
  rw [inByte_congr hf.inMem hf.resets]

/-- Settles O15: but for TA.TILE_WRITE an operation leaves OUT or loses the PixelArray on error entry. -/
theorem onlyTileWriteWritesOut : Obligations.OnlyTileWriteWritesOut := by
  unfold Obligations.OnlyTileWriteWritesOut
  intro i s t h hne
  have hf := exec_bufferFrame h
  rcases hf.out with ⟨hout, hlost⟩ | ⟨hq, hout, hlost⟩ | ⟨htile, -⟩
  · exact .inl fun a => ⟨by rw [hout], by rw [outByte_congr hout hlost hf.resets]⟩
  · refine .inr ⟨hq, fun a => ⟨fun ha => by rw [hout, peek_forget, if_pos ha], fun ha => ?_⟩⟩
    have hbyte : t.outByte = (s.scrambleOut s.pixels).outByte := outByte_congr hout hlost hf.resets
    rw [hbyte, scrambleOut_outByte_above s s.pixels a ha]
  · exact absurd htile hne

/-- Settles O25: a write marks the operation or frees its results; each visit of a marked operation takes the sequencer's way
and uses up one of the visits left to it. -/
theorem spoiledOperationsStillEnd : Obligations.SpoiledOperationsStillEnd := by
  unfold Obligations.SpoiledOperationsStillEnd
  refine ⟨fun s a bs hb hack ha => ?_, fun s a bs hb hack ha => ?_, fun s hi hu hb hsp => ?_,
    fun n s hs hu hsp hparse hcheck hblocks => ?_⟩
  · exact ⟨_, hostWriteIn_busy ha hack hb, rfl, inByte_of_written rfl, fun _ => inByte_of_not_written rfl rfl⟩
  · refine ⟨_, hostWriteIn_stopped ha hack hb, spoilResults_spoil _, spoilResults_seq _, fun x hx => ?_,
      inByte_of_written (spoilResults_inMem _)⟩
    rw [spoilResults_outMem, peek_forget, if_pos (by exact hx)]
  · exact ⟨_, step_spoiled hi hu hb hsp, (spoiledVisit_frame (by exact hb)).inMem,
      spoiledVisit_advance (by exact hb) (by exact hsp)⟩
  · have hn : s.visitsLeft ≤ n := by
      rcases busy_iff.1 (hs.spoiledWalks hsp).1 with hq | hq | hq
      · rw [visitsLeft_parse hq]; exact hparse hq
      · rw [visitsLeft_check hq]; exact hcheck hq
      · rw [visitsLeft_blocks hq]; exact hblocks hq
    obtain ⟨k, t, hk, hruns, hstop, hend, hout, hin, hlen, hie⟩ := spoiled_runs_to_end n hs hu hsp hn
    exact ⟨k, t, hk, hruns, hstop, hend, hout, hin, hlen, hie⟩

/-- Settles O23: the port takes four bytes at a multiple of 4 and refuses everything else. -/
theorem oddAccessesAreRefused : Obligations.OddAccessesAreRefused := by
  unfold Obligations.OddAccessesAreRefused
  refine ⟨fun s r rest w off bytes data hi hh hr he hodd => ?_, fun off s ho => ?_, fun off data s ho => ?_⟩
  · rw [step_host hi hh hr, he]
    exact if_pos hodd
  · exact if_neg (by simpa [offAligned] using ho)
  · exact if_neg (by simpa [offAligned] using ho)

/-- Settles O27: each access compares its addresses with the capacity before it does anything. -/
theorem absentAddressesFault : Obligations.AbsentAddressesFault := by
  unfold Obligations.AbsentAddressesFault
  refine ⟨fun s a bs h => if_pos h, fun s a h => if_pos h, fun s h hlen => ?_, fun s h => ⟨if_pos h, if_pos h, if_pos h⟩,
    fun s y x h => ?_⟩
  · exact (if_neg (Nat.not_lt.2 hlen)).trans (if_pos h)
  · have hcell := (mem_tileCells s _).2 ⟨y, x, rfl⟩
    refine if_neg fun hall => ?_
    have hlt := of_decide_eq_true (List.all_eq_true.1 hall _ hcell)
    exact absurd hlt (Nat.not_lt.2 h)

end

section
/-! PROOFS of the family 30_encoding: the decoder and the encoder agree (O1), and what the data's three selections (format
code, palette mode, index) do, with the sequencer's operations that follow them (O28, O29, O53 to O56). -/

namespace Sys2Proof

/-! ## What a decoded operation encodes to -/

/-- The value `c` stands for the operation `i`: one of its format's, with `c` as its encoding. -/
def StandsFor (c : Code) (i : Instr) : Prop := i.wellFormed = true ∧ encode i = c

/-- Every well-formed operation is what its encoding decodes to. -/
theorem decode_encode (i : Instr) : Laws.RoundTrip.Statement i := by
  cases i
  case fmtOther code => exact Laws.RoundTrip.fmtOther code
  case blkMode6 a0 a1 idx => exact Laws.RoundTrip.blkMode6 a0 a1 idx
  case blkMode4 a0 a1 idx => exact Laws.RoundTrip.blkMode4 a0 a1 idx
  case cmdStart wd => exact Laws.RoundTrip.cmdStart wd
  case cmdConfig wd => exact Laws.RoundTrip.cmdConfig wd
  case cmdSetlen len => exact Laws.RoundTrip.cmdSetlen len
  case regWrite off data => exact Laws.RoundTrip.regWrite off data
  case regRead off => exact Laws.RoundTrip.regRead off
  all_goals exact fun _ => rfl

/-- A code is its own encoding, and FMT_OTHER never holds a code that has a row (30_encoding.md R93). -/
theorem decodeFourcc_standsFor (w : Word) : StandsFor (.fourcc w) (decodeFourcc w) := by
  unfold decodeFourcc
  split
  · next h => exact ⟨rfl, congrArg Code.fourcc h.symm⟩
  · next hbc4u =>
    split
    · next h => exact ⟨rfl, congrArg Code.fourcc h.symm⟩
    · next hdx10 => exact ⟨by simp [Instr.wellFormed, hbc4u, hdx10], rfl⟩

/-- A block's mode is the order of its references, and its fields are the whole word (R94, R96). -/
theorem decodeBlock_standsFor (q : DWord) : StandsFor (.block q) (decodeBlock q) := by
  unfold decodeBlock
  split
  · next h => exact ⟨decide_eq_true h, congrArg Code.block (blockWord_fields q)⟩
  · next h => exact ⟨decide_eq_true (BitVec.not_lt.1 h), congrArg Code.block (blockWord_fields q)⟩

/-- Each of the eight indices of a mode has a row of its own (R97). -/
theorem decodeIdx3_standsFor (mode : Bool) (lane : Fin 16) (i : BitVec 3) :
    StandsFor (.idx3 mode lane i) (decodeIdx3 mode lane i) := by
  obtain ⟨i⟩ := i
  cases mode <;> fin_cases i <;> exact ⟨rfl, rfl⟩

/-- An access that decodes is its three fields: the offset is CTRL's, INPUT_LEN's or another, and a read has no data (R101). -/
theorem decodeRegacc_standsFor {a : BitVec 41} {i : Instr} (h : decodeRegacc a = .ok i) : StandsFor (.regacc a) i := by
  obtain ⟨w, off, data, rfl⟩ : ∃ w off data, a = accessWord w off data := ⟨_, _, _, (accessWord_fields a).symm⟩
  rw [decodeRegacc_accessWord] at h
  split at h
  · cases h
  next haligned =>
  rw [Bool.not_eq_false] at haligned
  split at h
  · next hwrite =>
    subst hwrite
    split at h
    · next hoff =>
      subst hoff
      split at h <;> cases h
      · next hstart => exact ⟨hstart, rfl⟩
      · next hstart => exact ⟨by simpa [Instr.wellFormed] using hstart, rfl⟩
    · next hctrl =>
      split at h <;> cases h
      · next hoff => exact ⟨rfl, by rw [hoff]; rfl⟩
      · next hlen => exact ⟨by simp [Instr.wellFormed, haligned, hctrl, hlen], rfl⟩
  · next hread =>
    rw [Bool.not_eq_true] at hread
    subst hread
    split at h <;> cases h
    next hdata => exact ⟨haligned, by rw [hdata]; rfl⟩

/-- A place of an order is a place of its list. -/
theorem opAt_eq_ok {l : List Instr} {n : Nat} {i : Instr} : opAt l n = .ok i ↔ l[n]? = some i := by
  induction l generalizing n with
  | nil => simp [opAt]
  | cons j l ih =>
    cases n with
    | zero => simp [opAt]
    | succ n => simpa [opAt] using ih

/-- In an order whose operations are encoded with its phase's code and their own places, a place stands for the operation
there. -/
theorem opAt_standsFor {l : List Instr} {code : BitVec 3} (hl : ∀ k : Fin l.length, StandsFor (.seq code k) l[k]) {n : Nat}
    {i : Instr} (h : opAt l n = .ok i) : StandsFor (.seq code n) i := by
  obtain ⟨hn, rfl⟩ := List.getElem?_eq_some_iff.1 (opAt_eq_ok.1 h)
  exact hl ⟨n, hn⟩

/-- The operations of the phases are encoded by phase code and place (R101; 41_decode_dispatch.md R151). -/
theorem phaseOps_standsFor (p : Phase) (k : Fin (phaseOps p).length) : StandsFor (.seq (phaseCode p) k) (phaseOps p)[k] := by
  unfold StandsFor
  revert k
  cases p <;> decide

/-- Only the codes of the phases with operations decode, each to the operation at the place. -/
theorem decodeSeq_standsFor {code : BitVec 3} {place : Nat} {i : Instr} (h : decodeSeq code place = .ok i) :
    StandsFor (.seq code place) i := by
  unfold decodeSeq at h
  split at h
  · next hp => subst hp; exact opAt_standsFor (phaseOps_standsFor .parse) h
  split at h
  · next hp => subst hp; exact opAt_standsFor (phaseOps_standsFor .check) h
  split at h
  · next hp => subst hp; exact opAt_standsFor (phaseOps_standsFor .blocks) h
  split at h <;> cases h

/-- A value that decodes is the encoding of the well-formed operation it decodes to. -/
theorem decode_standsFor {c : Code} {i : Instr} (h : decode c = .ok i) : StandsFor c i := by
  cases c with
  | fourcc w => cases h; exact decodeFourcc_standsFor w
  | block q => cases h; exact decodeBlock_standsFor q
  | idx3 mode lane k => cases h; exact decodeIdx3_standsFor mode lane k
  | regacc a => exact decodeRegacc_standsFor h
  | seq code place => exact decodeSeq_standsFor h

/-- The bytes of an encoded value decode as the value does. -/
theorem decodeBytes_toBytes (c : Code) : decodeBytes c.format c.toBytes = decode c := by
  rw [decodeBytes, ofBytes_toBytes]

end Sys2Proof

namespace Sys2Proof.Machine

/-! ## Format codes -/

/-- HP.DATA_OFFSET follows the marker (40_header_parser.md R135). -/
theorem exec_hpDataOffset (s : State) :
    exec .hpDataOffset s = .next { s with dataOffset := if s.hdrDx10 then 148#32 else 128#32 } := rfl

/-- The three format operations on the four bytes at 0x54: the marker, the offset that follows it, and the check. -/
theorem execAll_formatOps {s : State} (hcap : 0x58 ≤ s.inCapacity) {dx10 : Bool} (h : (s.inWord 0x54 == codeDx10) = dx10) :
    execAll [.hpDx10Detect, .hpDataOffset, .dsFormatCheck] s =
      if s.inWord 0x54 = codeBc4u then .next (s.selectFormat dx10 (if dx10 then 148#32 else 128#32))
      else .next ((s.selectFormat dx10 (if dx10 then 148#32 else 128#32)).raise .unsupportedFormat s.hdrFourcc) := by
  have hcheck := exec_dsFormatCheck (s := s.selectFormat dx10 (if dx10 then 148#32 else 128#32)) hcap
  rw [execAll_cons (exec_hpDx10Detect hcap), h, execAll_cons (exec_hpDataOffset _), execAll_one]
  exact hcheck

/-! ## Palettes -/

/-- The palette of a mode and its references (42_block_decompress.md R189 to R192). -/
def paletteOf (mode : Bool) (a0 a1 : Byte) : Vector Byte 8 := if mode then tab8 (entry6 a0 a1) else tab8 (entry4 a0 a1)

theorem tab8_map_toNat (f : Fin 8 → Byte) : (tab8 f).toList.map BitVec.toNat = List.ofFn fun i => (f i).toNat := rfl

/-- The 4-value mode, as a comparison of values. -/
theorem modeOf_eq_false_iff (a0 a1 : Byte) : modeOf a0 a1 = false ↔ a0.toNat ≤ a1.toNat := by
  rw [← Bool.not_eq_true, modeOf_iff, Nat.not_lt]

/-- In the mode that the order of the references gives, the palette is R195's. -/
theorem paletteOf_toNat (a0 a1 : Byte) :
    (paletteOf (modeOf a0 a1) a0 a1).toList.map BitVec.toNat = Spec.palette a0.toNat a1.toNat := by
  unfold Spec.palette
  split
  · next h =>
    rw [(modeOf_iff a0 a1).2 h, paletteOf, if_pos rfl, tab8_map_toNat]
    simp only [entry6_toNat]
    rfl
  · next h =>
    rw [(modeOf_eq_false_iff a0 a1).2 (Nat.not_lt.1 h), paletteOf, if_neg Bool.false_ne_true, tab8_map_toNat]
    simp only [entry4_toNat]
    rfl

/-- A palette of R195's values is the model's. -/
theorem eq_paletteOf {pal : Vector Byte 8} {a0 a1 : Byte}
    (h : pal.toList.map BitVec.toNat = Spec.palette a0.toNat a1.toNat) : pal = paletteOf (modeOf a0 a1) a0 a1 := by
  rw [← paletteOf_toNat] at h
  have hinj : Function.Injective (BitVec.toNat (w := 8)) := fun _ _ => BitVec.eq_of_toNat_eq
  exact Vector.toList_inj.1 (List.map_injective_iff.2 hinj h)

/-- A palette-mode selection latches the word's fields, the order's mode and its palette (30_encoding.md R96; log 14). -/
theorem exec_decodeBlock (q : DWord) (s : State) : exec (decodeBlock q) s = .next { s with
    lane.a0 := blockA0 q, lane.a1 := blockA1 q, lane.idx := blockIdx q
    lane.mode := modeOf (blockA0 q) (blockA1 q)
    lane.pal := paletteOf (modeOf (blockA0 q) (blockA1 q)) (blockA0 q) (blockA1 q) } := by
  unfold decodeBlock modeOf
  split
  · next h => rw [decide_eq_true h]; rfl
  · next h => rw [decide_eq_false h]; rfl

/-- BD.PAL_ENDPOINTS and BD.PAL6 write all eight entries of the 6-value mode (R189, R190). -/
theorem pal6_entries (pal : Vector Byte 8) (a0 a1 : Byte) :
    (tab8 fun i => if 2 ≤ i.val then interpolate 7 (i.val - 1) a0 a1 else ((pal.set 0 a0).set 1 a1)[i]) =
      tab8 (entry6 a0 a1) := by
  ext i hi
  interval_cases i <;> simp [entry6]

/-- BD.PAL_ENDPOINTS, BD.PAL4 and BD.PAL4_CONST write all eight entries of the 4-value mode (R189, R191, R192). -/
theorem pal4_entries (pal : Vector Byte 8) (a0 a1 : Byte) :
    ((tab8 fun i => if 2 ≤ i.val ∧ i.val ≤ 5 then interpolate 5 (i.val - 1) a0 a1
      else ((pal.set 0 a0).set 1 a1)[i]).set 6 0#8).set 7 255#8 = tab8 (entry4 a0 a1) := by
  ext i hi
  interval_cases i <;> simp [entry4]

/-- The five palette operations set the mode of the latched references and build its palette, whatever PAL held. -/
theorem execAll_paletteOps (s : State) :
    execAll [.bdModeSelect, .bdPalEndpoints, .bdPal6, .bdPal4, .bdPal4Const] s = .next { s with
      lane.mode := modeOf s.lane.a0 s.lane.a1
      lane.pal := paletteOf (modeOf s.lane.a0 s.lane.a1) s.lane.a0 s.lane.a1 } := by
  simp only [execAll, exec, execBdModeSelect, execBdPalEndpoints, execBdPal6, execBdPal4, execBdPal4Const, paletteOf]
  cases modeOf s.lane.a0 s.lane.a1
  · exact congrArg (fun pal => (.next { s with lane.mode := false, lane.pal := pal } : Result)) (pal4_entries s.lane.pal _ _)
  · exact congrArg (fun pal => (.next { s with lane.mode := true, lane.pal := pal } : Result)) (pal6_entries s.lane.pal _ _)

/-! ## Index selections -/

/-- An index selection gives the lane's pixel the entry of that number in its mode's palette (R97; log 13). -/
theorem exec_decodeIdx3 (mode : Bool) (lane : Fin 16) (i : BitVec 3) (s : State) : exec (decodeIdx3 mode lane i) s =
    .next (s.putPixel lane (paletteOf mode s.lane.a0 s.lane.a1)[entryNumber i]) := by
  obtain ⟨i⟩ := i
  cases mode <;> fin_cases i <;> rfl

theorem putPixel_same (s : State) (lane : Fin 16) (v : Byte) : (s.putPixel lane v).lane.pix[lane] = v :=
  Vector.getElem_set_self _

theorem putPixel_other (s : State) {lane p : Fin 16} (v : Byte) (h : p ≠ lane) :
    (s.putPixel lane v).lane.pix[p] = s.lane.pix[p] :=
  Vector.getElem_set_ne lane.isLt p.isLt fun hp => h (Fin.ext hp.symm)

/-- An operation that puts a value of one lane's pixel, with its frame. -/
theorem exec_putPixel {i : Instr} {s : State} {lane : Fin 16} {v : Byte} {n : Nat}
    (he : exec i s = .next (s.putPixel lane v)) (hv : v.toNat = n) :
    ∃ t, exec i s = .next t ∧ t.lane.pix[lane].toNat = n ∧ (∀ p : Fin 16, p ≠ lane → t.lane.pix[p] = s.lane.pix[p]) ∧
      t = { s with lane.pix := t.lane.pix } :=
  ⟨_, he, by rw [putPixel_same, hv], fun _ hp => putPixel_other s v hp, rfl⟩

/-- An interpolated entry by its two weights, which sum to the divisor (R97). -/
theorem interpolate_weights {d j k : Nat} (a0 a1 : Byte) (hd : 0 < d) (hsum : j + k = d) :
    (interpolate d k a0 a1).toNat = (j * a0.toNat + k * a1.toNat) / d := by
  rw [interpolate_toNat d k a0 a1 hd (by omega), show d - k = j by omega, Nat.mul_comm j, Nat.mul_comm k]

end Sys2Proof.Machine

open Sys2Proof Sys2Proof.Machine

/-- Settles O1: each format's decoder answers well-formed operations that encode to the value it was given, each well-formed
operation comes back from its encoding, and the bytes of a value decode as the value. -/
theorem decodeAndEncodeAgree : Obligations.DecodeAndEncodeAgree := by
  unfold Obligations.DecodeAndEncodeAgree
  exact ⟨decode_encode, fun _ _ => decode_standsFor, fun i hi => (decodeBytes_toBytes (encode i)).trans (decode_encode i hi)⟩

/-- Settles O29: the marker and the offset depend on "DX10" alone, and the check raises for every code but "BC4U". -/
theorem formatOperationsFollowTheCode : Obligations.FormatOperationsFollowTheCode := by
  unfold Obligations.FormatOperationsFollowTheCode
  intro s hcap hcode
  unfold decodeFourcc
  split
  · next hbc4u => rw [execAll_formatOps hcap (dx10 := false) (by rw [hbc4u]; rfl), if_pos hbc4u]; rfl
  next hbc4u =>
  split
  · next hdx10 => rw [execAll_formatOps hcap (beq_iff_eq.2 hdx10), if_neg hbc4u, hcode, hdx10]; rfl
  · next hdx10 => rw [execAll_formatOps hcap (beq_false_of_ne hdx10), if_neg hbc4u, hcode]; rfl

/-- Settles O53: the reference order is the mode's, so the palette each selection builds is R195's. -/
theorem blockModesBuildPalettes : Obligations.BlockModesBuildPalettes := by
  unfold Obligations.BlockModesBuildPalettes
  refine ⟨fun a0 a1 idx s h => ⟨_, rfl, rfl, ?_, rfl⟩, fun a0 a1 idx s h => ⟨_, rfl, rfl, ?_, rfl⟩⟩
  · have hmode : modeOf a0 a1 = true := (modeOf_iff a0 a1).2 h
    rw [← paletteOf_toNat, hmode]
    rfl
  · have hmode : modeOf a0 a1 = false := (modeOf_eq_false_iff a0 a1).2 h
    rw [← paletteOf_toNat, hmode]
    rfl

/-- Settles O54: both latch the mode of the word's references and its palette. -/
theorem paletteOperationsFollowTheBlockWord : Obligations.PaletteOperationsFollowTheBlockWord := by
  unfold Obligations.PaletteOperationsFollowTheBlockWord
  intro q s
  rw [execAll_paletteOps, exec_decodeBlock]

/-- Settles O55: a selection puts its mode's entry in the lane's pixel, and an interpolated entry has R97's weights. -/
theorem indexSelectionsPickEntries : Obligations.IndexSelectionsPickEntries := by
  unfold Obligations.IndexSelectionsPickEntries
  intro lane s selects
  have sevenths {j k : Nat} (h : j + k = 7) := interpolate_weights s.lane.a0 s.lane.a1 (by decide : 0 < 7) h
  have fifths {j k : Nat} (h : j + k = 5) := interpolate_weights s.lane.a0 s.lane.a1 (by decide : 0 < 5) h
  exact ⟨⟨exec_putPixel rfl rfl, exec_putPixel rfl rfl, exec_putPixel rfl (sevenths rfl),
      exec_putPixel rfl (sevenths rfl), exec_putPixel rfl (sevenths rfl), exec_putPixel rfl (sevenths rfl),
      exec_putPixel rfl (sevenths rfl), exec_putPixel rfl (sevenths rfl)⟩,
    ⟨exec_putPixel rfl rfl, exec_putPixel rfl rfl, exec_putPixel rfl (fifths rfl), exec_putPixel rfl (fifths rfl),
      exec_putPixel rfl (fifths rfl), exec_putPixel rfl (fifths rfl), exec_putPixel rfl rfl, exec_putPixel rfl rfl⟩⟩

/-- Settles O56: the entry BD.SELECT reads from PAL is the one the selection computes from the references. -/
theorem selectFollowsTheIndexSelections : Obligations.SelectFollowsTheIndexSelections := by
  unfold Obligations.SelectFollowsTheIndexSelections
  intro s hpal hmode
  refine ⟨_, rfl, fun p => ⟨_, exec_decodeIdx3 _ _ _ _, ?_⟩⟩
  rw [putPixel_same, tab16_get, eq_paletteOf hpal, hmode]
  rfl

/-- Settles O28: each selection writes the marker and the offset, and all but BC4U's enter the error. -/
theorem formatCodesSelect : Obligations.FormatCodesSelect := by
  unfold Obligations.FormatCodesSelect
  exact ⟨fun _ => rfl, fun _ => ⟨_, rfl, raise_entered _ .unsupportedFormat codeDx10⟩,
    fun code _ => ⟨_, rfl, raise_entered _ .unsupportedFormat code⟩⟩

end

section
/-! PROOFS of the family 40_header_parser: what each operation of phase PARSE does (O30 to O33), and what the PARSE visit as a
whole takes from IN (O34, O35). -/

namespace Sys2Proof.Machine

/-! ## Words of IN -/

/-- A word of IN is a code exactly if the little-endian sum of its bytes is the code's value (00_scope.md R9). -/
theorem inWord_eq_iff_leSum (s : State) (off : Nat) (w : Word) : s.inWord off = w ↔ Spec.leSum s.inByte off 4 = w.toNat := by
  rw [← inWord_toNat, BitVec.toNat_inj]

/-- A word of IN depends on its four bytes only. -/
theorem inWord_congr {s t : State} {off : Nat} (h : ∀ a, off ≤ a → a < off + 4 → t.inByte a = s.inByte a) :
    t.inWord off = s.inWord off := by
  rw [inWord_eq, inWord_eq, h off (by omega) (by omega), h (off + 1) (by omega) (by omega),
    h (off + 2) (by omega) (by omega), h (off + 3) (by omega) (by omega)]

/-- The word at 0x54 is "DX10" exactly if its four bytes are the characters (40_header_parser.md R134). -/
theorem inWord_eq_codeDx10 (s : State) : s.inWord 0x54 = codeDx10 ↔
    s.inByte 0x54 = 0x44#8 ∧ s.inByte 0x55 = 0x58#8 ∧ s.inByte 0x56 = 0x31#8 ∧ s.inByte 0x57 = 0x30#8 := by
  have hcode : codeDx10 = 0x30#8 ++ 0x31#8 ++ 0x58#8 ++ 0x44#8 := rfl
  rw [inWord_eq, hcode, append4_eq]
  tauto

/-- The information word of two failed checks, by the conditions they test (R137; 41_decode_dispatch.md R154). -/
theorem failedBits_toNat_of_iff {a b : Bool} {p q : Prop} [Decidable p] [Decidable q] (ha : a = true ↔ p)
    (hb : b = true ↔ q) : (failedBits a b).toNat = (if p then 1 else 0) + (if q then 2 else 0) := by
  rw [failedBits_toNat]
  simp only [← ha, ← hb]
  cases a <;> cases b <;> rfl

/-! ## The operations of phase PARSE -/

theorem exec_hpLengthCheck (s : State) :
    exec .hpLengthCheck s = .next (if s.opLen.toNat < 128 then s.raise .truncatedInput s.opLen else s) := by
  simp only [exec, execHpLengthCheck]
  split <;> rfl

/-- The strict check tests something only with STRICT latched, and reports each of its two comparisons (R137). -/
theorem exec_hpStrictCheck (s : State) : exec .hpStrictCheck s = .next (
    if s.opStrict = true ∧ (s.hdrMagic.toNat ≠ 0x20534444 ∨ s.hdrSize.toNat ≠ 124) then
      s.raise .malformedHeader (failedBits (s.hdrMagic != codeDds) (s.hdrSize != 124#32))
    else s) := by
  have hcond : (s.opStrict && (s.hdrMagic != codeDds || s.hdrSize != 124#32)) = true ↔
      s.opStrict = true ∧ (s.hdrMagic.toNat ≠ 0x20534444 ∨ s.hdrSize.toNat ≠ 124) := by
    simp only [Bool.and_eq_true, Bool.or_eq_true, bne_iff_ne, ne_iff_toNat_ne]
    rfl
  simp only [exec, execHpStrictCheck, hcond]
  split <;> rfl

/-! ## The PARSE visit -/

/-- A step under which no host request falls due is the decoder's turn (log 2). -/
theorem step_undisturbed {s : State} (hi : s.issue = none) (hu : s.Undisturbed 1) (hb : s.busy = true) :
    step s = decoderTurn { s with host := oneTurnPassed s.host } := by
  cases hh : s.host with
  | nil => rw [step_turn hi hh hb]; simp only [oneTurnPassed, ← hh]
  | cons r rest =>
    have hr : 1 ≤ r.wait := hu r (by simp [hh])
    exact step_host_waits hi hh hb (by omega)

/-- The first step of a started operation is the PARSE visit (41_decode_dispatch.md R168). -/
theorem runs_one_afterParse {s : State} (hs : s.JustStarted) (hu : s.Undisturbed 1) :
    s.Runs 1 ({ s with host := oneTurnPassed s.host } : State).afterParse := by
  obtain ⟨hinv, hq, hclean⟩ := hs
  have hcap : 0x58 ≤ s.inCapacity := Nat.le_trans (by decide) hinv.inCapacityLegal.1
  apply runs_one
  rw [step_undisturbed hinv.issueEmpty hu (busy_of_seq (.inl hq)), decoderTurn_clean (by exact hclean)]
  exact visit_parse (by exact hq) (by exact hcap)

/-- DATA_OFFSET as the PARSE visit writes it is 148 exactly for "DX10" (R135, R138). -/
theorem parsed_dataOffset_toNat (s : State) :
    s.parsed.dataOffset.toNat = if Spec.leSum s.inByte 0x54 4 = 0x30315844 then 148 else 128 := by
  have hdx10 : s.inWord 0x54 = codeDx10 ↔ Spec.leSum s.inByte 0x54 4 = 0x30315844 := inWord_eq_iff_leSum s 0x54 codeDx10
  simp only [parsed_dataOffset, beq_iff_eq, hdx10]
  split <;> rfl

/-- With a whole header the sizes, the code and the data offset are written, whatever the strict check finds (R131, R138). -/
theorem afterParse_header {s : State} (hl : 128 ≤ s.opLen.toNat) :
    s.afterParse.hdrWidth.toNat = Spec.leSum s.inByte 0x10 4 ∧
    s.afterParse.hdrHeight.toNat = Spec.leSum s.inByte 0x0C 4 ∧
    s.afterParse.hdrFourcc.toNat = Spec.leSum s.inByte 0x54 4 ∧
    s.afterParse.dataOffset.toNat = if Spec.leSum s.inByte 0x54 4 = 0x30315844 then 148 else 128 := by
  unfold State.afterParse
  rw [if_neg (Nat.not_lt.2 hl)]
  split <;> exact ⟨inWord_toNat s _, inWord_toNat s _, inWord_toNat s _, parsed_dataOffset_toNat s⟩

/-- Without STRICT a whole header is always passed on to CHECK (R137, R138). -/
theorem afterParse_seq_lenient {s : State} (hl : 128 ≤ s.opLen.toNat) (hstrict : s.opStrict = false) :
    s.afterParse.seq = .check := by
  unfold State.afterParse
  rw [if_neg (Nat.not_lt.2 hl), if_neg (by simp [hstrict])]
  rfl

/-- The five words of the header that the parser reads are the same in another IN (R131). -/
structure SameFields (s : State) (m : Memory) : Prop where
  magic : ({ s with inMem := m } : State).inWord 0x00 = s.inWord 0x00
  size : ({ s with inMem := m } : State).inWord 0x04 = s.inWord 0x04
  height : ({ s with inMem := m } : State).inWord 0x0C = s.inWord 0x0C
  width : ({ s with inMem := m } : State).inWord 0x10 = s.inWord 0x10
  fourcc : ({ s with inMem := m } : State).inWord 0x54 = s.inWord 0x54

theorem SameFields.of_inByte {s : State} {m : Memory}
    (h : ∀ a, (a < 0x08 ∨ (0x0C ≤ a ∧ a < 0x14) ∨ (0x54 ≤ a ∧ a < 0x58)) →
      ({ s with inMem := m } : State).inByte a = s.inByte a) : SameFields s m := by
  constructor <;> exact inWord_congr fun a _ _ => h a (by omega)

/-- The registers written from another IN with the same fields differ in nothing. -/
theorem SameFields.parsed {s : State} {m : Memory} (h : SameFields s m) :
    ({ s with inMem := m } : State).parsed = { s.parsed with inMem := m } := by
  unfold State.parsed State.withFields
  rw [h.magic, h.size, h.height, h.width, h.fourcc]

/-- The PARSE visit on another IN with the same fields ends in the same way and differs in nothing but IN (R136). -/
theorem SameFields.afterParse {s : State} {m : Memory} (h : SameFields s m) :
    ({ s with inMem := m } : State).afterParse = { s.afterParse with inMem := m } := by
  unfold State.afterParse
  rw [h.parsed, h.magic, h.size]
  split
  · rfl
  · split <;> rfl

end Sys2Proof.Machine

open Sys2Proof Sys2Proof.Machine

/-- Settles O33: the conditions of the two failed-check bits are the comparisons of the magic and of the size. -/
theorem strictCheckNamesWhatIsWrong : Obligations.StrictCheckNamesWhatIsWrong := by
  unfold Obligations.StrictCheckNamesWhatIsWrong
  intro s
  refine ⟨_, exec_hpStrictCheck s, fun hfine => if_neg ?_, fun hwrong => ?_⟩
  · rintro ⟨hstrict, hmagic | hsize⟩
    · simp [hstrict, hmagic] at hfine
    · simp [hstrict, hsize] at hfine
  · have hbits := failedBits_toNat_of_iff (bne_iff_ne.trans (ne_iff_toNat_ne (x := s.hdrMagic) (y := codeDds)))
      (bne_iff_ne.trans (ne_iff_toNat_ne (x := s.hdrSize) (y := 124#32)))
    rw [if_pos hwrong]
    exact hbits ▸ raise_entered s .malformedHeader _

/-- Settles O34: the one step is the PARSE visit, which writes the words of the header and passes to CHECK without STRICT. -/
theorem headerRoundTrip : Obligations.HeaderRoundTrip := by
  unfold Obligations.HeaderRoundTrip
  intro s hs hu hl
  have hlong : 128 ≤ ({ s with host := oneTurnPassed s.host } : State).opLen.toNat := hl
  obtain ⟨hwidth, hheight, hfourcc, hoffset⟩ := afterParse_header hlong
  exact ⟨_, runs_one_afterParse hs hu, hwidth, hheight, hfourcc, hoffset, afterParse_seq_lenient hlong⟩

/-- Settles O35: the one step is the PARSE visit, which reads nothing of IN but the five words. -/
theorem parserReadsOnlyItsFields : Obligations.ParserReadsOnlyItsFields := by
  unfold Obligations.ParserReadsOnlyItsFields
  intro s m hs hs' hu hbytes
  have hfields : SameFields { s with host := oneTurnPassed s.host } m := .of_inByte hbytes
  exact ⟨_, _, runs_one_afterParse hs hu, runs_one_afterParse hs' hu, hfields.afterParse⟩

/-- Settles O30: the check raises TruncatedInput with L exactly below 128. -/
theorem lengthCheckNeedsAHeader : Obligations.LengthCheckNeedsAHeader := by
  unfold Obligations.LengthCheckNeedsAHeader
  refine fun s => ⟨_, exec_hpLengthCheck s, fun hshort => ?_, fun hlong => if_neg (Nat.not_lt.2 hlong)⟩
  rw [if_pos hshort]
  exact raise_entered s .truncatedInput s.opLen

/-- Settles O31: each register takes its word of IN, which is the sum of its bytes. -/
theorem readFieldsCopiesTheHeader : Obligations.ReadFieldsCopiesTheHeader := by
  unfold Obligations.ReadFieldsCopiesTheHeader
  exact fun s hcap => ⟨_, exec_hpReadFields hcap, inWord_toNat s _, inWord_toNat s _, inWord_toNat s _, inWord_toNat s _,
    inWord_toNat s _, rfl⟩

/-- Settles O32: the marker is the compare of the word at 0x54 with "DX10", byte by byte, and the offset follows it. -/
theorem markerAndDataOffset : Obligations.MarkerAndDataOffset := by
  unfold Obligations.MarkerAndDataOffset
  refine ⟨fun s hcap => ⟨_, exec_hpDx10Detect hcap, beq_iff_eq.trans (inWord_eq_codeDx10 s), rfl⟩,
    fun s => ⟨_, exec_hpDataOffset s, ?_, rfl⟩⟩
  show (if s.hdrDx10 = true then 148#32 else 128#32).toNat = _
  split <;> rfl

end

section
/-! PROOFS of the family 41_decode_dispatch: the step and its visits (O3, O4, O5), that no sound step stops (O10), START and the
operations of phase CHECK and of the block walk (O17, O36 to O45), and whole operations (O58, O59). -/

namespace Sys2Proof

/-- The operations of a phase are those its code and their places decode to (30_encoding.md R101; 41_decode_dispatch.md
R151). -/
theorem phaseOps_getElem?_iff (p : Phase) (k : Nat) (i : Instr) :
    (phaseOps p)[k]? = some i ↔ decode (.seq (phaseCode p) k) = .ok i := by
  have hnone : ∀ {e : DecodeError}, ([] : List Instr)[k]? = some i ↔ (.error e : Except DecodeError Instr) = .ok i := by
    simp
  cases p with
  | parse | check | blocks => exact opAt_eq_ok.symm
  | idle | done | error => exact hnone

/-- A word of the opcode table decodes as the encoded value in it does. -/
theorem decodeTableWord_eq_some {nbits w : Nat} {i : Instr} (h : decodeTableWord nbits w = some i) :
    ∃ c, codeOfTableWord nbits w = some c ∧ decode c = .ok i := by
  unfold decodeTableWord at h
  split at h
  · cases h
  · next c hc =>
    refine ⟨c, hc, ?_⟩
    cases hd : decode c with
    | ok j => rw [hd] at h; cases h; rfl
    | error e => rw [hd] at h; cases h

end Sys2Proof

namespace Sys2Proof.Machine

/-! ## The step -/

theorem runCode_decoded {c : Code} {i : Instr} (h : decode c = .ok i) (s : State) : runCode c s = exec i s := by
  simp only [runCode, h]

/-- No operation of phase PARSE leaves it but by an error (R151). -/
theorem parseOp_seq {i : Instr} (hi : i ∈ parseOps) {s t : State} (h : exec i s = .next t) :
    t.seq = s.seq ∨ t.seq = .error := by
  simp only [parseOps, List.mem_cons, List.not_mem_nil, or_false] at hi
  rcases hi with rfl | rfl | rfl | rfl | rfl
  · rw [exec_hpLengthCheck] at h; cases h
    split
    · exact .inr rfl
    · exact .inl rfl
  · simp only [exec, execHpReadFields, State.readingIn] at h
    split at h <;> cases h
    exact .inl rfl
  · simp only [exec, execHpDx10Detect, State.readingIn] at h
    split at h <;> cases h
    exact .inl rfl
  · cases h; exact .inl rfl
  · rw [exec_hpStrictCheck] at h; cases h
    split
    · exact .inr rfl
    · exact .inl rfl

/-! ## START -/

theorem exec_cmdStart_idle {wd : Word} {s : State} (h : s.busy = false) :
    exec (.cmdStart wd) s = .next (s.configure wd).start :=
  congrArg _ (writeStart_idle h)

/-! ## The operations of phase CHECK -/

/-- The word at 0x54 is "BC4U" exactly if its four bytes are the characters (R152). -/
theorem inWord_eq_codeBc4u (s : State) : s.inWord 0x54 = codeBc4u ↔
    s.inByte 0x54 = 0x42#8 ∧ s.inByte 0x55 = 0x43#8 ∧ s.inByte 0x56 = 0x34#8 ∧ s.inByte 0x57 = 0x55#8 := by
  have hcode : codeBc4u = 0x55#8 ++ 0x34#8 ++ 0x43#8 ++ 0x42#8 := rfl
  rw [inWord_eq, hcode, append4_eq]
  tauto

/-- DS.ALIGN_CHECK reports each of its two comparisons (R154). -/
theorem exec_dsAlignCheck (s : State) : exec .dsAlignCheck s = .next (
    if s.hdrWidth.toNat % 4 ≠ 0 ∨ s.hdrHeight.toNat % 4 ≠ 0 then
      s.raise .blockAlignmentError (failedBits (s.width % 4 != 0) (s.height % 4 != 0))
    else s) := by
  have hcond : (s.width % 4 != 0 || s.height % 4 != 0) = true ↔ s.hdrWidth.toNat % 4 ≠ 0 ∨ s.hdrHeight.toNat % 4 ≠ 0 := by
    simp only [Bool.or_eq_true, bne_iff_ne]
    rfl
  simp only [exec, execDsAlignCheck, hcond]
  split <;> rfl

/-- The information word of the alignment check (R154). -/
theorem alignBits_toNat (s : State) : (failedBits (s.width % 4 != 0) (s.height % 4 != 0)).toNat =
    (if s.hdrWidth.toNat % 4 ≠ 0 then 1 else 0) + (if s.hdrHeight.toNat % 4 ≠ 0 then 2 else 0) :=
  failedBits_toNat_of_iff bne_iff_ne bne_iff_ne

theorem exec_dsBlockCount (s : State) : exec .dsBlockCount s = .next s.counted := rfl

/-- BLOCK_COUNT never wraps (R156; 10_state.md R48). -/
theorem counted_blockCount_exact (s : State) : s.counted.blockCount.toNat = s.pixels / 16 := by
  have h := pixels_lt s
  rw [counted_blockCount, BitVec.toNat_ofNat, Nat.mod_eq_of_lt (by omega)]

theorem exec_dsCapacityCheck (s : State) : exec .dsCapacityCheck s = .next (
    if s.outCapacity < s.pixels then s.raise .capacityExceeded 0#32
    else if s.blockCount = 0#64 then s.finish .done
    else { s.setSeq .blocks with blockIndex := 0#64 }) := by
  simp only [exec, execDsCapacityCheck]
  split
  · rfl
  · split <;> rfl

/-- A count is 0 exactly if its value is. -/
theorem eq_zero_iff_toNat {n : Nat} {x : BitVec n} : x = 0#n ↔ x.toNat = 0 := by
  rw [← BitVec.toNat_inj, BitVec.toNat_zero]

/-! ## Visits, from the front and from the back -/

theorem execAll_append {is js : List Instr} {s t : State} (h : execAll is s = .next t) :
    execAll (is ++ js) s = execAll js t := by
  induction is generalizing s with
  | nil => cases h; rfl
  | cons i is ih =>
    simp only [execAll] at h
    split at h
    · next u hu => rw [List.cons_append, execAll_cons hu]; exact ih h
    · cases h
    · cases h

/-- The last operation of a block ends its visit, whether or not it leaves the phase. -/
theorem runOps_blocks_last (i : Instr) (s : State) : runOps .blocks [i] s = exec i s := by
  simp only [runOps]
  split
  · next t ht => rw [ht]; split <;> rfl
  · next hf => exact hf.symm
  · next hr => exact hr.symm

/-! ## Decompression -/

/-- The latches after the operations of the single-block decompression (42_block_decompress.md R195). -/
def Latches.decompressed (l : Latches) : Latches :=
  let ext := tab16 (extractedIndex (indexField l.blk))
  let sel := tab16 fun p => ext[p.rev]
  let pal := paletteOf (modeOf l.blk[0] l.blk[1]) l.blk[0] l.blk[1]
  let pix := tab16 fun p => pal[entryNumber sel[p]]
  { l with
    a0 := l.blk[0], a1 := l.blk[1], idx := indexField l.blk, ext := ext, sel := sel
    mode := modeOf l.blk[0] l.blk[1], pal := pal, pix := pix, tile := tab4 fun y => tab4 fun x => pix[pixelNumber y x] }

/-- The operations of the single-block decompression always answer, and write the working lane's latches (R195, R201). -/
theorem execAll_decompressOps (s : State) :
    execAll decompressOps s = .next { s with lane := s.lane.decompressed } := by
  have hsplit : decompressOps = [.bdRefUnpack, .bdIdxAssemble, .bdIdxSplit, .bdPixelOrder] ++
    ([.bdModeSelect, .bdPalEndpoints, .bdPal6, .bdPal4, .bdPal4Const] ++ [.bdSelect, .bdReshape]) := rfl
  rw [hsplit, execAll_append rfl, execAll_append (execAll_paletteOps _)]
  rfl

/-- A palette entry is the entry of R195's palette. -/
theorem paletteOf_entry (a0 a1 : Byte) (i : Fin 8) :
    ((paletteOf (modeOf a0 a1) a0 a1)[i]).toNat = (Spec.palette a0.toNat a1.toNat).getD i.val 0 := by
  rw [← paletteOf_toNat]
  simp [List.getD_eq_getElem?_getD]

/-- The index field is the little-endian sum of the block's bytes 2 to 7 (R182). -/
theorem indexField_toNat {blk : Vector Byte 8} {buf : Nat → Byte} {base : Nat}
    (h : ∀ k : Fin 8, blk[k] = buf (base + k.val)) : (indexField blk).toNat = Spec.leSum buf (base + 2) 6 := by
  have hlt := leNat_lt [blk[2], blk[3], blk[4], blk[5], blk[6], blk[7]]
  have h2 : blk[2] = buf (base + 2) := h 2
  have h3 : blk[3] = buf (base + 3) := h 3
  have h4 : blk[4] = buf (base + 4) := h 4
  have h5 : blk[5] = buf (base + 5) := h 5
  have h6 : blk[6] = buf (base + 6) := h 6
  have h7 : blk[7] = buf (base + 7) := h 7
  rw [indexField, BitVec.toNat_ofNat, Nat.mod_eq_of_lt (by simpa using hlt), h2, h3, h4, h5, h6, h7]
  simp only [Spec.leSum, Finset.sum_range_succ, Finset.sum_range_zero, leNat, Nat.add_assoc, Nat.reduceAdd]
  omega

/-- Index `p` in pixel order is bits `3p+2 : 3p` of the index field (R183, R184). -/
theorem extractedIndex_rev_toNat (idx : BitVec 48) (p : Fin 16) :
    (extractedIndex idx p.rev).toNat = idx.toNat / 2 ^ (3 * p.val) % 8 := by
  rw [extractedIndex_toNat, Fin.val_rev, show 45 - 3 * (16 - (p.val + 1)) = 3 * p.val by omega]

/-- The tile of a block in a buffer is R195's. -/
theorem decompressed_tile {l : Latches} {buf : Nat → Byte} {base : Nat}
    (h : ∀ k : Fin 8, l.blk[k] = buf (base + k.val)) (y x : Fin 4) :
    (l.decompressed.tile[y][x]).toNat = Spec.tilePixel buf base y.val x.val := by
  have h0 : l.blk[0] = buf base := h 0
  have h1 : l.blk[1] = buf (base + 1) := h 1
  have hidx := extractedIndex_rev_toNat (indexField l.blk) (pixelNumber y x)
  rw [indexField_toNat h] at hidx
  simp only [Latches.decompressed, tab4_get, tab16_get, paletteOf_entry, h0, h1, Spec.tilePixel]
  exact congrArg (List.getD _ · 0) hidx


/-! ## Tiles and the PixelArray -/

/-- The address in OUT of pixel (y, x) of the tile at (r, c), in an image of width `w` (41_decode_dispatch.md R161). -/
def tileAddress (w r c y x : Nat) : Nat := (4 * r + y) * w + (4 * c + x)

theorem pixelAddress_eq (s : State) (y x : Nat) :
    s.pixelAddress y x = tileAddress s.width s.lane.placeRow s.lane.placeCol y x := rfl

/-- The pixels of a tile of the grid lie in the image's columns. -/
theorem tileCol_lt {w c : Nat} (hc : c < w / 4) (x : Fin 4) : 4 * c + x.val < w := by omega

/-- Every address of a tile of the grid is one of the PixelArray (R162). -/
theorem tileAddress_lt {w h r c : Nat} (hr : r < h / 4) (hc : c < w / 4) (y x : Fin 4) :
    tileAddress w r c y.val x.val < w * h := by
  have hcol := tileCol_lt hc x
  have hrow : 4 * r + y.val + 1 ≤ h := by omega
  calc tileAddress w r c y.val x.val < (4 * r + y.val) * w + w := Nat.add_lt_add_left hcol _
    _ = (4 * r + y.val + 1) * w := (Nat.succ_mul _ _).symm
    _ ≤ h * w := Nat.mul_le_mul_right w hrow
    _ = w * h := Nat.mul_comm h w

/-- An address of a tile of the grid gives the tile and the pixel back. -/
theorem tileAddress_injective {w r c r' c' : Nat} (hc : c < w / 4) (hc' : c' < w / 4) {y x y' x' : Fin 4}
    (h : tileAddress w r c y.val x.val = tileAddress w r' c' y'.val x'.val) : r = r' ∧ c = c' ∧ y = y' ∧ x = x' := by
  have hdiv : ∀ {a b : Nat}, b < w → (a * w + b) / w = a ∧ (a * w + b) % w = b := fun {a b} hb => by
    rw [Nat.mul_comm, Nat.mul_add_div (by omega), Nat.mul_add_mod, Nat.div_eq_of_lt hb, Nat.mod_eq_of_lt hb]; simp
  obtain ⟨hrow, hcol⟩ := hdiv (a := 4 * r + y.val) (tileCol_lt hc x)
  obtain ⟨hrow', hcol'⟩ := hdiv (a := 4 * r' + y'.val) (tileCol_lt hc' x')
  unfold tileAddress at h
  rw [h] at hrow hcol
  refine ⟨?_, ?_, Fin.ext ?_, Fin.ext ?_⟩ <;> omega

/-- Every address of the PixelArray is a pixel's of a tile of the grid (R162). -/
theorem exists_tileAddress {w h a : Nat} (hw : w % 4 = 0) (hh : h % 4 = 0) (ha : a < w * h) :
    ∃ (r c : Nat) (y x : Fin 4), r < h / 4 ∧ c < w / 4 ∧ tileAddress w r c y.val x.val = a := by
  have hpos : 0 < w := Nat.pos_of_ne_zero (by rintro rfl; simp at ha)
  have hrow : a / w < h := Nat.div_lt_of_lt_mul ha
  have hcol : a % w < w := Nat.mod_lt a hpos
  refine ⟨a / w / 4, a % w / 4, ⟨a / w % 4, by omega⟩, ⟨a % w % 4, by omega⟩, by omega, by omega, ?_⟩
  simp only [tileAddress, Nat.div_add_mod]
  rw [Nat.mul_comm]
  exact Nat.div_add_mod a w

/-- The number of blocks of an image of whole tiles is the number of its tiles (R156). -/
theorem blocks_eq_tiles {w h : Nat} (hw : w % 4 = 0) (hh : h % 4 = 0) : w * h / 16 = h / 4 * (w / 4) := by
  obtain ⟨w, rfl⟩ := Nat.dvd_of_mod_eq_zero hw
  obtain ⟨h, rfl⟩ := Nat.dvd_of_mod_eq_zero hh
  rw [Nat.mul_div_cancel_left _ (by decide), Nat.mul_div_cancel_left _ (by decide),
    show 4 * w * (4 * h) = 16 * (h * w) by ring, Nat.mul_div_cancel_left _ (by decide)]

/-! ## The operations of a BLOCK visit -/

theorem exec_sqBlockFetch_short {s : State} (h : s.opLen.toNat < s.blockAddress + 8) :
    exec .sqBlockFetch s = .next (s.raise .invalidBlockSize (s.blockIndex.extractLsb' 0 32)) := if_pos h

theorem exec_sqBlockFetch_whole {s : State} (hcap : s.opLen.toNat ≤ s.inCapacity)
    (h : s.blockAddress + 8 ≤ s.opLen.toNat) :
    exec .sqBlockFetch s = .next { s with lane.blk := s.blockAt s.blockAddress } :=
  (if_neg (Nat.not_lt.2 h)).trans (if_neg (Nat.not_lt.2 (h.trans hcap)))

/-- The state after TA.TILE_PLACE where there is a tile (R160). -/
def State.placed (s : State) : State :=
  { s with
    lane.placeRow := (placeOf s.opOrder s.tileRows s.tileCols s.blockIndex.toNat).1
    lane.placeCol := (placeOf s.opOrder s.tileRows s.tileCols s.blockIndex.toNat).2 }

theorem exec_taTilePlace_tiles {s : State} (hr : s.tileRows ≠ 0) (hc : s.tileCols ≠ 0) :
    exec .taTilePlace s = .next s.placed := if_neg (by simp [hr, hc])

theorem exec_taTilePlace_noTile {s : State} (h : s.tileRows = 0 ∨ s.tileCols = 0) :
    exec .taTilePlace s = .next { s with
      lane.placeRow := (Config.freeWord s.draws).toNat
      lane.placeCol := (Config.freeWord (s.draws + 1)).toNat
      draws := s.draws + 2 } := if_pos h

/-- A tile write whose addresses exist stores its sixteen bytes (R161). -/
theorem exec_taTileWrite_exists {s : State} (h : ∀ y x : Fin 4, s.pixelAddress y.val x.val < s.outCapacity) :
    exec .taTileWrite s = .next { s with outMem := s.outMem.pokeAll s.tileCells } := by
  refine if_pos (List.all_eq_true.2 fun c hc => decide_eq_true ?_)
  obtain ⟨y, x, rfl⟩ := (mem_tileCells s c).1 hc
  exact h y x

/-- SQ.ADVANCE answers in every state (R163). -/
theorem exec_sqAdvance_eq (s : State) : exec .sqAdvance s = .next (
    if s.blockIndex + 1#64 = s.blockCount then ({ s with blockIndex := s.blockIndex + 1#64 } : State).finish .done
    else { s with blockIndex := s.blockIndex + 1#64 }) := by
  simp only [exec, execSqAdvance]
  split <;> rfl

/-! ## The BLOCK visit -/

/-- The place of a block of an image that the checks let through is one of the tile grid (R162). -/
theorem placeOf_lt_of_accepted {s : State} (himg : s.imageAccepted) (hlt : s.blockIndex.toNat < s.blockCount.toNat) :
    (placeOf s.opOrder s.tileRows s.tileCols s.blockIndex.toNat).1 < s.tileRows ∧
    (placeOf s.opOrder s.tileRows s.tileCols s.blockIndex.toNat).2 < s.tileCols := by
  obtain ⟨-, -, -, hw, hh, hn, -⟩ := himg
  refine placeOf_lt ?_
  rw [hn, State.pixels, blocks_eq_tiles hw hh] at hlt
  exact hlt

/-- The state of a BLOCK visit once the block is fetched, decompressed and placed (R158, R160; 42_block_decompress.md
R195). -/
def State.tilePlaced (s : State) : State :=
  ({ s with lane := Latches.decompressed { s.lane with blk := s.blockAt s.blockAddress } } : State).placed

/-- The state of a BLOCK visit before SQ.ADVANCE, once the tile is stored (R161). -/
def State.tileStored (s : State) : State :=
  { s.tilePlaced with outMem := s.outMem.pokeAll s.tilePlaced.tileCells }

/-- The operations of a block whose eight bytes lie below L store the block's tile and count it. -/
theorem runOps_blockOps_whole {s : State} (hq : s.seq = .blocks) (hcap : s.opLen.toNat ≤ s.inCapacity)
    (himg : s.imageAccepted) (hlt : s.blockIndex.toNat < s.blockCount.toNat)
    (hlen : s.blockAddress + 8 ≤ s.opLen.toNat) : runOps .blocks blockOps s = exec .sqAdvance s.tileStored := by
  obtain ⟨hrow, hcol⟩ := placeOf_lt_of_accepted himg hlt
  obtain ⟨-, -, -, -, -, -, hout⟩ := himg
  have hcells : ∀ y x : Fin 4, s.tilePlaced.pixelAddress y.val x.val < s.outCapacity := fun y x =>
    Nat.lt_of_lt_of_le (tileAddress_lt hrow hcol y x) hout
  have hkeep : ∀ i ∈ decompressOps, ∀ u v, exec i u = .next v → v.seq = u.seq := fun i hi u v h => by
    rw [exec_decompress hi h]
  rw [blockOps_eq, runOps_next (exec_sqBlockFetch_whole hcap hlen) hq,
    runOps_append (by exact hq) hkeep (execAll_decompressOps _),
    runOps_next (t := s.tilePlaced) (exec_taTilePlace_tiles (Nat.ne_zero_of_lt hrow) (Nat.ne_zero_of_lt hcol)) hq,
    runOps_next (t := s.tileStored) (exec_taTileWrite_exists hcells) hq, runOps_blocks_last]

/-- A block whose eight bytes do not lie below L raises InvalidBlockSize (R158). -/
theorem runOps_blockOps_short {s : State} (hlen : s.opLen.toNat < s.blockAddress + 8) :
    runOps .blocks blockOps s = .next (s.raise .invalidBlockSize (s.blockIndex.extractLsb' 0 32)) := by
  rw [blockOps_eq, runOps_leave (exec_sqBlockFetch_short hlen) (by simp)]

/-! ## Steps that answer -/

/-- A visit of a sound operation that the host has not spoiled answers: the bytes it reads lie below L, and the addresses it
writes are the PixelArray's (R158, R162). -/
theorem decoderVisit_answers {s : State} (hs : s.Inv) (hb : s.busy = true) (hc : s.spoil = .clean) :
    ∃ t, decoderVisit s = .next t := by
  have hcap : 0x58 ≤ s.inCapacity := Nat.le_trans (by decide) hs.inCapacityLegal.1
  rcases busy_iff.1 hb with hq | hq | hq
  · exact ⟨_, visit_parse hq hcap⟩
  · exact ⟨_, visit_check hq hcap⟩
  · have hn : s.nextLane.Inv := inv_nextLane hs
    have hq' : s.nextLane.seq = .blocks := by rw [nextLane_eq]; exact hq
    have hc' : s.nextLane.spoil = .clean := by rw [nextLane_eq]; exact hc
    obtain ⟨-, -, himg, hlt⟩ := (phaseSound_blocks hq').1 (hn.sound hc')
    rw [visit_block hq]
    rcases Nat.lt_or_ge s.nextLane.opLen.toNat (s.nextLane.blockAddress + 8) with hlen | hlen
    · exact ⟨_, runOps_blockOps_short hlen⟩
    · rw [runOps_blockOps_whole hq' hn.opLenFits himg hlt hlen]
      exact ⟨_, exec_sqAdvance_eq _⟩

/-- The decoder's turn answers in a sound state: an operation under which the host wrote IN has a free outcome
(20_memory.md R78). -/
theorem decoderTurn_answers {s : State} (hs : s.Inv) (hb : s.busy = true) : ∃ t, decoderTurn s = .next t := by
  cases hsp : s.spoil with
  | clean => rw [decoderTurn_clean hsp]; exact decoderVisit_answers hs hb hsp
  | running => exact ⟨_, decoderTurn_running hsp⟩
  | ended =>
    have hstop := hs.endedStopped hsp
    rw [busy_iff] at hb
    rcases hstop with hq | hq <;> simp [hq] at hb

/-- An event that the interface has is answered (20_memory.md R60, R61, R64). -/
theorem serveHost_answers {e : HostEvent} {s : State} (h : e.legal s) : ∃ t, serveHost e s = .next t := by
  cases e with
  | access w off bytes data =>
    obtain ⟨rfl, ha⟩ := h
    exact ⟨_, hostAccess_aligned s ha⟩
  | writeIn a bs => exact ⟨_, if_neg (Nat.not_lt.2 h)⟩
  | readOut a =>
    rcases hostReadOut_cases h with ⟨-, b, hread⟩ | ⟨-, hread⟩
    · exact ⟨_, hread⟩
    · exact ⟨_, hread⟩
  | reset => exact ⟨_, rfl⟩

/-! ## The placement law -/

/-- The addresses that a tile write stores to. -/
theorem exists_mem_tileCells {s : State} {a : Nat} : (∃ v, (a, v) ∈ s.tileCells) ↔
    ∃ y x : Fin 4, tileAddress s.width s.lane.placeRow s.lane.placeCol y.val x.val = a := by
  constructor
  · rintro ⟨v, hv⟩
    obtain ⟨y, x, h⟩ := (mem_tileCells s _).1 hv
    exact ⟨y, x, (pixelAddress_eq s _ _).symm.trans (congrArg Prod.fst h).symm⟩
  · rintro ⟨y, x, rfl⟩
    exact ⟨_, (mem_tileCells s _).2 ⟨y, x, congrArg (·, _) (pixelAddress_eq s _ _).symm⟩⟩

/-- `t` is `s` after TA.TILE_PLACE of the image's block `b` (R160). -/
def State.PlacesBlock (s : State) (b : DWord) (t : State) : Prop :=
  b.toNat < s.pixels / 16 ∧ exec .taTilePlace { s with blockIndex := b } = .next t

section
variable {s : State} (hw : s.width % 4 = 0) (hh : s.height % 4 = 0)
include hw hh

/-- Every block of an image of whole tiles is placed at its place in the order, which is one of the tile grid. -/
theorem placesBlock_iff {b : DWord} {t : State} : s.PlacesBlock b t ↔
    b.toNat < s.tileRows * s.tileCols ∧ t = ({ s with blockIndex := b } : State).placed := by
  unfold State.PlacesBlock State.pixels
  rw [blocks_eq_tiles hw hh]
  refine and_congr_right fun hb => ?_
  obtain ⟨hrow, hcol⟩ := placeOf_lt (o := s.opOrder) hb
  rw [exec_taTilePlace_tiles (s := { s with blockIndex := b }) (Nat.ne_zero_of_lt hrow) (Nat.ne_zero_of_lt hcol)]
  exact ⟨fun h => by cases h; rfl, fun h => by rw [h]⟩

theorem placesBlock_width {b : DWord} {t : State} (h : s.PlacesBlock b t) : t.width = s.width := by
  rw [((placesBlock_iff hw hh).1 h).2]
  rfl

theorem placesBlock_grid {b : DWord} {t : State} (h : s.PlacesBlock b t) :
    t.lane.placeRow < s.tileRows ∧ t.lane.placeCol < s.tileCols := by
  obtain ⟨hb, rfl⟩ := (placesBlock_iff hw hh).1 h
  exact placeOf_lt hb

/-- Two blocks at one place are one block. -/
theorem placesBlock_unique {b b' : DWord} {t t' : State} (h : s.PlacesBlock b t) (h' : s.PlacesBlock b' t')
    (hr : t'.lane.placeRow = t.lane.placeRow) (hc : t'.lane.placeCol = t.lane.placeCol) : b' = b := by
  obtain ⟨-, rfl⟩ := (placesBlock_iff hw hh).1 h
  obtain ⟨-, rfl⟩ := (placesBlock_iff hw hh).1 h'
  exact BitVec.eq_of_toNat_eq (placeOf_injective (Prod.ext hr hc))

/-- Every place of the grid is some block's. -/
theorem exists_placesBlock {r c : Nat} (hr : r < s.tileRows) (hc : c < s.tileCols) :
    ∃ b t, s.PlacesBlock b t ∧ t.lane.placeRow = r ∧ t.lane.placeCol = c := by
  obtain ⟨k, hk, hplace⟩ := placeOf_surjective (o := s.opOrder) hr hc
  have hlt : k < 2 ^ 64 := by
    have hp := pixels_lt s
    have ht : s.pixels / 16 = s.tileRows * s.tileCols := blocks_eq_tiles hw hh
    omega
  have hb : (BitVec.ofNat 64 k).toNat = k := by rw [BitVec.toNat_ofNat, Nat.mod_eq_of_lt hlt]
  refine ⟨BitVec.ofNat 64 k, _, (placesBlock_iff hw hh).2 ⟨hb.symm ▸ hk, rfl⟩, ?_, ?_⟩ <;>
    simp only [State.placed, hb] <;> exact congrArg _ hplace

end

/-! ## The file of an operation -/

/-- One of the decoder's turns has passed for the host's requests (log 2). -/
def State.turnPassed (s : State) : State := { s with host := oneTurnPassed s.host }

@[simp] theorem turnPassed_outCapacity (s : State) : s.turnPassed.outCapacity = s.outCapacity := rfl
@[simp] theorem turnPassed_inputLen (s : State) : s.turnPassed.inputLen = s.inputLen := rfl
@[simp] theorem turnPassed_ctrlIe (s : State) : s.turnPassed.ctrlIe = s.ctrlIe := rfl
@[simp] theorem turnPassed_opOrder (s : State) : s.turnPassed.opOrder = s.opOrder := rfl
@[simp] theorem turnPassed_opLen (s : State) : s.turnPassed.opLen = s.opLen := rfl
@[simp] theorem turnPassed_inMem (s : State) : s.turnPassed.inMem = s.inMem := rfl
@[simp] theorem turnPassed_outMem (s : State) : s.turnPassed.outMem = s.outMem := rfl
@[simp] theorem turnPassed_blockIndex (s : State) : s.turnPassed.blockIndex = s.blockIndex := rfl
@[simp] theorem turnPassed_host (s : State) : s.turnPassed.host = oneTurnPassed s.host := rfl
@[simp] theorem turnPassed_spoil (s : State) : s.turnPassed.spoil = s.spoil := rfl
@[simp] theorem turnPassed_resets (s : State) : s.turnPassed.resets = s.resets := rfl
@[simp] theorem turnPassed_outScrambles (s : State) : s.turnPassed.outScrambles = s.outScrambles := rfl

/-- The two states agree on the file, the buffers' sizes and the configuration: what no visit changes. -/
structure SameFile (s u : State) : Prop where
  inMem : u.inMem = s.inMem
  resets : u.resets = s.resets
  outCapacity : u.outCapacity = s.outCapacity
  inputLen : u.inputLen = s.inputLen
  ctrlIe : u.ctrlIe = s.ctrlIe
  opOrder : u.opOrder = s.opOrder
  opLen : u.opLen = s.opLen

theorem SameFile.trans {s u v : State} (h : SameFile s u) (h' : SameFile u v) : SameFile s v where
  inMem := h'.inMem.trans h.inMem
  resets := h'.resets.trans h.resets
  outCapacity := h'.outCapacity.trans h.outCapacity
  inputLen := h'.inputLen.trans h.inputLen
  ctrlIe := h'.ctrlIe.trans h.ctrlIe
  opOrder := h'.opOrder.trans h.opOrder
  opLen := h'.opLen.trans h.opLen

theorem sameFile_turnPassed (s : State) : SameFile s s.turnPassed := ⟨rfl, rfl, rfl, rfl, rfl, rfl, rfl⟩

theorem SameFile.inByte {s u : State} (h : SameFile s u) : u.inByte = s.inByte := inByte_congr h.inMem h.resets

/-- `t` is the end of an operation started in `s` whose file is rejected with this code and information: no block was read,
and OUT is as before above the PixelArray (60_exceptions.md R230, R231, R233). -/
structure Rejected (s t : State) (code info : Nat) : Prop where
  seq : t.seq = .error
  errorCode : t.errorCode.toNat = code
  errorInfo : t.errorInfo.toNat = info
  blockIndex : t.blockIndex = 0#64
  inMem : t.inMem = s.inMem
  inputLen : t.inputLen = s.inputLen
  ctrlIe : t.ctrlIe = s.ctrlIe
  outByte : ∀ a, Spec.width s.inByte * Spec.height s.inByte ≤ a → t.outByte a = s.outByte a

/-- Error entry rejects the file before a block is read. -/
theorem rejected_raise {s u : State} (hf : SameFile s u) (ht : u.blockIndex = 0#64) (hout : u.outByte = s.outByte)
    (hp : u.pixels ≤ Spec.width s.inByte * Spec.height s.inByte) (e : ErrorKind) {info : Word} {n : Nat}
    (hn : info.toNat = n) : Rejected s (u.raise e info) e.code.toNat n where
  seq := rfl
  errorCode := rfl
  errorInfo := hn
  blockIndex := ht
  inMem := hf.inMem
  inputLen := hf.inputLen
  ctrlIe := hf.ctrlIe
  outByte a ha := by rw [raise_outByte_above u e info a (hp.trans ha), hout]

/-! ## The PARSE visit by the checks of DECODE -/

/-- STRICT is latched, and the magic or the size is wrong (40_header_parser.md R137). -/
def State.strictFails (s : State) : Prop :=
  s.opStrict = true ∧ (Spec.leSum s.inByte 0x00 4 ≠ 0x20534444 ∨ Spec.leSum s.inByte 0x04 4 ≠ 124)

theorem inWord_bne_iff (s : State) (off : Nat) (w : Word) :
    (s.inWord off != w) = true ↔ Spec.leSum s.inByte off 4 ≠ w.toNat := by
  rw [bne_iff_ne, ne_eq, inWord_eq_iff_leSum]

theorem strictFails_iff (s : State) :
    (s.opStrict && (s.inWord 0x00 != codeDds || s.inWord 0x04 != 124#32)) = true ↔ s.strictFails := by
  simp only [Bool.and_eq_true, Bool.or_eq_true, inWord_bne_iff]
  rfl

/-- The PARSE visit of a file that fails the strict check (R137). -/
theorem afterParse_strictFails {s : State} (hl : 128 ≤ s.opLen.toNat) (h : s.strictFails) : s.afterParse =
    s.parsed.raise .malformedHeader (failedBits (s.inWord 0x00 != codeDds) (s.inWord 0x04 != 124#32)) :=
  (if_neg (Nat.not_lt.2 hl)).trans (if_pos ((strictFails_iff s).2 h))

/-- The PARSE visit of a file that passes its checks. -/
theorem afterParse_passes {s : State} (hl : 128 ≤ s.opLen.toNat) (h : ¬ s.strictFails) :
    s.afterParse = s.parsed.setSeq .check :=
  (if_neg (Nat.not_lt.2 hl)).trans (if_neg fun hf => h ((strictFails_iff s).1 hf))

/-- A file that holds no whole header is rejected, and OUT loses nothing: the size registers are still 0 (R130, log 24). -/
theorem afterParse_truncated {s : State} (hs : s.JustStarted) (hl : s.opLen.toNat < 128) :
    Rejected s s.turnPassed.afterParse 2 s.opLen.toNat := by
  obtain ⟨hinv, hq, hclean⟩ := hs
  obtain ⟨-, -, -, -, -, hw, -, -, -, -, ht⟩ := (phaseSound_parse hq).1 (hinv.sound hclean)
  have hp : s.turnPassed.pixels = 0 := by simp only [State.pixels, State.width, State.turnPassed, hw]; exact Nat.zero_mul _
  have heq : s.turnPassed.afterParse = s.turnPassed.raise .truncatedInput s.opLen := if_pos hl
  rw [heq]
  exact rejected_raise (sameFile_turnPassed s) ht rfl (hp.le.trans (Nat.zero_le _)) .truncatedInput rfl

/-- A file that fails the strict check is rejected with the header's sizes read (R137). -/
theorem afterParse_malformed {s : State} (hs : s.JustStarted) (hl : 128 ≤ s.opLen.toNat) (h : s.strictFails) :
    Rejected s s.turnPassed.afterParse 3 ((if Spec.leSum s.inByte 0x00 4 ≠ 0x20534444 then 1 else 0) +
      (if Spec.leSum s.inByte 0x04 4 ≠ 124 then 2 else 0)) := by
  obtain ⟨hinv, hq, hclean⟩ := hs
  obtain ⟨-, -, -, -, -, -, -, -, -, -, ht⟩ := (phaseSound_parse hq).1 (hinv.sound hclean)
  have hp : s.turnPassed.parsed.pixels = Spec.width s.inByte * Spec.height s.inByte := by
    simp only [State.pixels, State.width, State.height, parsed_hdrWidth, parsed_hdrHeight, inWord_toNat]
    rfl
  have hbits := failedBits_toNat_of_iff (inWord_bne_iff s 0x00 codeDds) (inWord_bne_iff s 0x04 124#32)
  rw [afterParse_strictFails (s := s.turnPassed) hl h]
  exact rejected_raise (by constructor <;> simp) (by simpa using ht) (outByte_congr (by simp) (by simp) (by simp)) hp.le
    .malformedHeader hbits

/-- `u` is an operation started in `s` that has come to its CHECK visit. -/
structure ReadyToCheck (s u : State) : Prop where
  inv : u.Inv
  seq : u.seq = .check
  clean : u.spoil = .clean
  file : SameFile s u
  outMem : u.outMem = s.outMem
  outScrambles : u.outScrambles = s.outScrambles

/-- An operation whose file passes the checks of PARSE comes to CHECK in one step (41_decode_dispatch.md R168). -/
theorem runs_to_check {s : State} {n : Nat} (hs : s.JustStarted) (hu : s.Undisturbed (n + 1)) (hl : 128 ≤ s.opLen.toNat)
    (hstrict : ¬ s.strictFails) : ∃ u, s.Runs 1 u ∧ ReadyToCheck s u ∧ u.Undisturbed n := by
  have hrun := runs_one_afterParse hs fun r hr => Nat.le_trans (by omega) (hu r hr)
  have hpass : ({ s with host := oneTurnPassed s.host } : State).afterParse = s.turnPassed.parsed.setSeq .check :=
    afterParse_passes (s := s.turnPassed) hl hstrict
  have hinv := inv_afterParse (inv_host hs.1 (oneTurnPassed s.host)) hs.2.2 hs.2.1
  rw [hpass] at hrun hinv
  have hclean : (s.turnPassed.parsed.setSeq .check).spoil = .clean := by simpa using hs.2.2
  have hfile : SameFile s (s.turnPassed.parsed.setSeq .check) := by constructor <;> simp
  exact ⟨_, hrun, ⟨hinv, by simp, hclean, hfile, by simp, by simp⟩, undisturbed_oneTurnPassed hu (by simp)⟩

/-! ## The CHECK visit by the checks of DECODE -/

namespace ReadyToCheck

variable {s u : State} (h : ReadyToCheck s u)
include h

theorem turnPassed : ReadyToCheck s u.turnPassed :=
  { h with inv := inv_host h.inv _, file := h.file.trans (sameFile_turnPassed u) }

theorem fieldsRead : u.fieldsRead := ((phaseSound_check h.seq).1 (h.inv.sound h.clean)).2.1

theorem blockIndex : u.blockIndex = 0#64 := by
  obtain ⟨-, -, -, ht, -⟩ := (phaseSound_check h.seq).1 (h.inv.sound h.clean)
  exact ht

theorem width : u.width = Spec.width s.inByte := by
  obtain ⟨-, -, -, hw, -⟩ := h.fieldsRead
  rw [State.width, hw, inWord_toNat, h.file.inByte, Spec.width]

theorem height : u.height = Spec.height s.inByte := by
  obtain ⟨-, -, hh, -, -⟩ := h.fieldsRead
  rw [State.height, hh, inWord_toNat, h.file.inByte, Spec.height]

theorem pixels : u.pixels = Spec.width s.inByte * Spec.height s.inByte := by rw [State.pixels, h.width, h.height]

theorem fourcc : u.hdrFourcc.toNat = Spec.leSum s.inByte 0x54 4 := by
  obtain ⟨-, -, -, -, hf⟩ := h.fieldsRead
  rw [hf, inWord_toNat, h.file.inByte]

theorem outByte : u.outByte = s.outByte := outByte_congr h.outMem h.outScrambles h.file.resets

theorem counted : SameFile s u.counted := h.file.trans (by constructor <;> simp)

theorem alignBits : (failedBits (u.width % 4 != 0) (u.height % 4 != 0)).toNat =
    (if Spec.width s.inByte % 4 ≠ 0 then 1 else 0) + (if Spec.height s.inByte % 4 ≠ 0 then 2 else 0) := by
  rw [← h.width, ← h.height]
  exact alignBits_toNat u

/-- Where the host asks nothing, the next step is the CHECK visit (41_decode_dispatch.md R168). -/
theorem runs_one (hu : u.Undisturbed 1) : u.Runs 1 u.turnPassed.afterCheck := by
  have hcap : 0x58 ≤ u.inCapacity := Nat.le_trans (by decide) h.inv.inCapacityLegal.1
  apply Machine.runs_one
  rw [step_undisturbed h.inv.issueEmpty hu (busy_of_seq (.inr (.inl h.seq))), decoderTurn_clean (by exact h.clean)]
  exact visit_check (s := u.turnPassed) h.seq hcap

/-- The CHECK visit in the terms of DECODE (R166). -/
theorem afterCheck_eq : u.afterCheck =
    if Spec.leSum s.inByte 0x54 4 ≠ 0x55344342 then u.raise .unsupportedFormat u.hdrFourcc
    else if Spec.width s.inByte % 4 ≠ 0 ∨ Spec.height s.inByte % 4 ≠ 0 then
      u.raise .blockAlignmentError (failedBits (u.width % 4 != 0) (u.height % 4 != 0))
    else if s.outCapacity < Spec.width s.inByte * Spec.height s.inByte then u.counted.raise .capacityExceeded 0#32
    else if Spec.blocks s.inByte = 0 then u.counted.finish .done
    else { u.counted.setSeq .blocks with blockIndex := 0#64 } := by
  have hcode : u.inWord 0x54 ≠ codeBc4u ↔ Spec.leSum s.inByte 0x54 4 ≠ 0x55344342 := by
    rw [ne_eq, inWord_eq_iff_leSum, h.file.inByte]; rfl
  have halign : (u.width % 4 != 0 || u.height % 4 != 0) = true ↔
      Spec.width s.inByte % 4 ≠ 0 ∨ Spec.height s.inByte % 4 ≠ 0 := by
    rw [Bool.or_eq_true, bne_iff_ne, bne_iff_ne, h.width, h.height]
  have hzero : u.counted.blockCount = 0#64 ↔ Spec.blocks s.inByte = 0 := by
    rw [eq_zero_iff_toNat, counted_blockCount_exact, h.pixels, Spec.blocks]
  simp only [State.afterCheck, hcode, halign, hzero, h.pixels, h.file.outCapacity]

end ReadyToCheck

/-! ## What a BLOCK visit stores -/

/-- The place of the block that the sequencer is at (R160). -/
def State.blockPlace (s : State) : Nat × Nat := placeOf s.opOrder s.tileRows s.tileCols s.blockIndex.toNat

theorem place_eq_placeOf (o : TileOrder) (th tw t : Nat) :
    Spec.place (decide (o = .rowMajor)) th tw t = placeOf o th tw t := by
  cases o <;> rfl

/-- The tile that a BLOCK visit stores is DECODE_BLOCK's of the block's eight bytes of IN (42_block_decompress.md R195). -/
theorem tilePlaced_tile (s : State) (y x : Fin 4) :
    s.tilePlaced.lane.tile[y][x] = BitVec.ofNat 8 (Spec.tilePixel s.inByte s.blockAddress y.val x.val) := by
  have hblk : ∀ k : Fin 8, (s.blockAt s.blockAddress)[k] = s.inByte (s.blockAddress + k.val) := tab8_get _
  have htile := decompressed_tile (l := { s.lane with blk := s.blockAt s.blockAddress }) hblk y x
  rw [← htile, BitVec.ofNat_toNat, BitVec.setWidth_eq]
  rfl

/-- A BLOCK visit stores the block's pixels at the block's place. -/
theorem tileStored_peek_tile {s : State} (hw : 4 ≤ s.width) (y x : Fin 4) :
    s.tileStored.outMem.peek (tileAddress s.width s.blockPlace.1 s.blockPlace.2 y.val x.val) =
      some (BitVec.ofNat 8 (Spec.tilePixel s.inByte s.blockAddress y.val x.val)) :=
  peek_pokeAll_mem _ _ _ _ (tileCells_nodup s.tilePlaced hw)
    ((mem_tileCells s.tilePlaced _).2 ⟨y, x, Prod.ext rfl (tilePlaced_tile s y x).symm⟩)

/-- A BLOCK visit leaves every other byte of OUT. -/
theorem tileStored_peek_other {s : State} {a : Nat}
    (h : ∀ y x : Fin 4, tileAddress s.width s.blockPlace.1 s.blockPlace.2 y.val x.val ≠ a) :
    s.tileStored.outMem.peek a = s.outMem.peek a :=
  peek_pokeAll_other _ _ _ fun c hc => by
    obtain ⟨y, x, rfl⟩ := (mem_tileCells s.tilePlaced c).1 hc
    exact h y x

/-- What a BLOCK visit that decodes its block does to the state. -/
structure BlockDecoded (s t : State) : Prop where
  file : SameFile s t
  spoil : t.spoil = s.spoil
  width : t.width = s.width
  height : t.height = s.height
  blockIndex : t.blockIndex = s.blockIndex + 1#64
  seq : (s.blockIndex + 1#64 = s.blockCount ∧ t.seq = .done) ∨ (s.blockIndex + 1#64 ≠ s.blockCount ∧ t.seq = .blocks)
  outScrambles : t.outScrambles = s.outScrambles
  tile : ∀ y x : Fin 4, t.outMem.peek (tileAddress s.width s.blockPlace.1 s.blockPlace.2 y.val x.val) =
    some (BitVec.ofNat 8 (Spec.tilePixel s.inByte s.blockAddress y.val x.val))
  other : ∀ a, (∀ y x : Fin 4, tileAddress s.width s.blockPlace.1 s.blockPlace.2 y.val x.val ≠ a) →
    t.outMem.peek a = s.outMem.peek a

/-- SQ.ADVANCE after a BLOCK visit's other operations keeps what they did, counts the block, and ends the operation or stays
in BLOCKS (R163). -/
theorem blockDecoded_advance {s t : State} (hq : s.seq = .blocks) (hw : 4 ≤ s.width)
    (h : exec .sqAdvance s.tileStored = .next t) : BlockDecoded s t ∧ t.host = s.host := by
  have hframe : s.tileStored = { s with lane := s.tilePlaced.lane, outMem := s.tileStored.outMem } := rfl
  have htile := tileStored_peek_tile hw
  have hother := @tileStored_peek_other s
  generalize s.tileStored.outMem = out at hframe htile hother
  rw [hframe] at h
  rcases exec_sqAdvance_cases h with ⟨hlast, rfl⟩ | ⟨hmore, rfl⟩
  · exact ⟨⟨⟨rfl, rfl, rfl, rfl, rfl, rfl, rfl⟩, rfl, rfl, rfl, rfl, .inl ⟨hlast, rfl⟩, rfl, htile, fun _ => hother⟩, rfl⟩
  · exact ⟨⟨⟨rfl, rfl, rfl, rfl, rfl, rfl, rfl⟩, rfl, rfl, rfl, rfl, .inr ⟨hmore, hq⟩, rfl, htile, fun _ => hother⟩, rfl⟩

/-- The operations of a block that lies below L decode it. -/
theorem runOps_blockOps_decoded {s : State} (hq : s.seq = .blocks) (hcap : s.opLen.toNat ≤ s.inCapacity)
    (himg : s.imageAccepted) (hlt : s.blockIndex.toNat < s.blockCount.toNat)
    (hlen : s.blockAddress + 8 ≤ s.opLen.toNat) :
    ∃ t, runOps .blocks blockOps s = .next t ∧ BlockDecoded s t ∧ t.host = s.host := by
  have hw : 4 ≤ s.width := by
    have hcol : s.blockPlace.2 < s.width / 4 := (placeOf_lt_of_accepted himg hlt).2
    omega
  obtain ⟨t, ht⟩ : ∃ t, exec .sqAdvance s.tileStored = .next t := ⟨_, exec_sqAdvance_eq _⟩
  exact ⟨t, (runOps_blockOps_whole hq hcap himg hlt hlen).trans ht, blockDecoded_advance hq hw ht⟩

/-- Which requests wait and which lane works makes no difference to what a BLOCK visit does. -/
theorem BlockDecoded.of_start {s t : State} {q : List Request} {l : Latches} {ls : List Latches}
    (h : BlockDecoded { s with host := q, lane := l, otherLanes := ls } t) : BlockDecoded s t where
  file := ⟨h.file.inMem, h.file.resets, h.file.outCapacity, h.file.inputLen, h.file.ctrlIe, h.file.opOrder, h.file.opLen⟩
  spoil := h.spoil
  width := h.width
  height := h.height
  blockIndex := h.blockIndex
  seq := h.seq
  outScrambles := h.outScrambles
  tile := h.tile
  other := h.other

/-- Where the host asks nothing, a step in phase BLOCKS is the BLOCK visit of some lane (R168, R169). -/
theorem step_blocks {s : State} (hs : s.Inv) (hc : s.spoil = .clean) (hq : s.seq = .blocks) (hu : s.Undisturbed 1) :
    ∃ l ls, step s =
      runOps .blocks blockOps { s with host := oneTurnPassed s.host, lane := l, otherLanes := ls } := by
  refine ⟨s.turnPassed.nextLane.lane, s.turnPassed.nextLane.otherLanes, ?_⟩
  rw [step_undisturbed hs.issueEmpty hu (busy_of_seq (.inr (.inr hq))), decoderTurn_clean (by exact hc)]
  exact (visit_block (s := s.turnPassed) hq).trans (congrArg _ (nextLane_eq _))

/-- Where the host asks nothing, a step in phase BLOCKS whose block lies below L decodes the block. -/
theorem step_block {s : State} (hs : s.Inv) (hc : s.spoil = .clean) (hq : s.seq = .blocks) (hu : s.Undisturbed 1)
    (hlen : s.blockAddress + 8 ≤ s.opLen.toNat) :
    ∃ t, step s = .next t ∧ BlockDecoded s t ∧ t.host = oneTurnPassed s.host := by
  obtain ⟨-, -, himg, hlt⟩ := (phaseSound_blocks hq).1 (hs.sound hc)
  obtain ⟨l, ls, hstep⟩ := step_blocks hs hc hq hu
  obtain ⟨t, ht, hdone, hhost⟩ := runOps_blockOps_decoded
    (s := { s with host := oneTurnPassed s.host, lane := l, otherLanes := ls }) hq hs.opLenFits himg hlt hlen
  exact ⟨t, hstep.trans ht, hdone.of_start, hhost⟩

/-! ## The block walk -/

/-- Where the pixel in row `y`, column `x` of block `b` of the file in `s` goes (R160, R161). -/
def State.filePixelAddress (s : State) (b : Nat) (y x : Fin 4) : Nat :=
  let place := placeOf s.opOrder (Spec.height s.inByte / 4) (Spec.width s.inByte / 4) b
  tileAddress (Spec.width s.inByte) place.1 place.2 y.val x.val

/-- `u` is an operation started in `s` whose file has passed the checks and whose first `k` blocks are decoded. -/
structure DecodedUpTo (s u : State) (k : Nat) : Prop where
  inv : u.Inv
  clean : u.spoil = .clean
  file : SameFile s u
  width : u.width = Spec.width s.inByte
  height : u.height = Spec.height s.inByte
  blockIndex : u.blockIndex.toNat = k
  seq : (u.seq = .blocks ∧ k < Spec.blocks s.inByte) ∨ (u.seq = .done ∧ k = Spec.blocks s.inByte)
  stored : ∀ b, b < k → ∀ y x : Fin 4, u.outMem.peek (s.filePixelAddress b y x) =
    some (BitVec.ofNat 8 (Spec.tilePixel s.inByte (128 + 8 * b) y.val x.val))
  outside : ∀ a, Spec.width s.inByte * Spec.height s.inByte ≤ a → u.outByte a = s.outByte a

theorem afterCheck_host (s : State) : s.afterCheck.host = s.host := by
  unfold State.afterCheck
  split_ifs <;> simp

/-- A file that passes the checks is let through to the block walk, or to DONE if it has no block (R157). -/
theorem ReadyToCheck.decodedUpTo_zero {s u : State} (h : ReadyToCheck s u) (hcode : Spec.leSum s.inByte 0x54 4 = 0x55344342)
    (halign : ¬ (Spec.width s.inByte % 4 ≠ 0 ∨ Spec.height s.inByte % 4 ≠ 0))
    (hfits : ¬ s.outCapacity < Spec.width s.inByte * Spec.height s.inByte) : DecodedUpTo s u.afterCheck 0 := by
  have hinv := inv_afterCheck h.inv h.clean h.seq
  rw [h.afterCheck_eq, if_neg (not_not.2 hcode), if_neg halign, if_neg hfits] at hinv ⊢
  split
  · next hzero =>
    rw [if_pos hzero] at hinv
    refine ⟨hinv, h.clean, h.counted.trans (by constructor <;> simp), h.width, h.height, ?_, .inr ⟨rfl, hzero.symm⟩, nofun,
      fun a _ => congrFun h.outByte a⟩
    simp [h.blockIndex]
  · next hsome =>
    rw [if_neg hsome] at hinv
    exact ⟨hinv, h.clean, h.counted.trans (by constructor <;> simp), h.width, h.height, rfl,
      .inl ⟨rfl, Nat.pos_of_ne_zero hsome⟩, nofun, fun a _ => congrFun h.outByte a⟩

/-- An operation whose file passes the checks comes to its block walk in two steps (R166, R168). -/
theorem runs_to_blocks {s : State} {n : Nat} (hs : s.JustStarted) (hu : s.Undisturbed (n + 2))
    (hpass : Spec.checkError s.inByte s.opLen.toNat s.opStrict s.outCapacity = none) :
    ∃ u, s.Runs 2 u ∧ DecodedUpTo s u 0 ∧ u.Undisturbed n := by
  unfold Spec.checkError at hpass
  split_ifs at hpass with hl hstrict hcode halign hfits
  obtain ⟨u, hruns, hready, hwait⟩ := runs_to_check (n := n + 1) hs hu (Nat.not_lt.1 hl) hstrict
  have hcheck := hready.runs_one fun r hr => Nat.le_trans (by omega) (hwait r hr)
  have hdec := hready.turnPassed.decodedUpTo_zero (not_not.1 hcode) halign hfits
  exact ⟨_, runs_add hruns hcheck, hdec, undisturbed_oneTurnPassed hwait (afterCheck_host _)⟩

namespace DecodedUpTo

variable {s u : State} {k : Nat} (h : DecodedUpTo s u k)
include h

theorem imageAccepted : u.imageAccepted := by
  have hsound := h.inv.sound h.clean
  rcases h.seq with ⟨hq, -⟩ | ⟨hq, -⟩
  · exact ((phaseSound_blocks hq).1 hsound).2.2.1
  · exact ((phaseSound_done hq).1 hsound).1

theorem blockCount : u.blockCount.toNat = Spec.blocks s.inByte := by
  obtain ⟨-, -, -, -, -, hn, -⟩ := h.imageAccepted
  rw [hn, State.pixels, h.width, h.height, Spec.blocks]

theorem blockAddress : u.blockAddress = 128 + 8 * k := by
  obtain ⟨-, -, hoff, -⟩ := h.imageAccepted
  rw [State.blockAddress, hoff, h.blockIndex]
  rfl

/-- The blocks of the file have places in the tile grid (R162). -/
theorem place_lt {b : Nat} (hb : b < Spec.blocks s.inByte) :
    (placeOf s.opOrder (Spec.height s.inByte / 4) (Spec.width s.inByte / 4) b).1 < Spec.height s.inByte / 4 ∧
    (placeOf s.opOrder (Spec.height s.inByte / 4) (Spec.width s.inByte / 4) b).2 < Spec.width s.inByte / 4 := by
  obtain ⟨-, -, -, hw, hh, -, -⟩ := h.imageAccepted
  rw [h.width] at hw
  rw [h.height] at hh
  exact placeOf_lt (blocks_eq_tiles hw hh ▸ hb)

/-- No two pixels of different blocks have one address (R162). -/
theorem filePixelAddress_injective {b b' : Nat} (hb : b < Spec.blocks s.inByte) (hb' : b' < Spec.blocks s.inByte)
    {y x y' x' : Fin 4} (he : s.filePixelAddress b y x = s.filePixelAddress b' y' x') : b = b' := by
  obtain ⟨hr, hc, -, -⟩ := tileAddress_injective (h.place_lt hb).2 (h.place_lt hb').2 he
  exact placeOf_injective (Prod.ext hr hc)

/-- Every pixel of a block lies in the PixelArray (R162). -/
theorem filePixelAddress_lt {b : Nat} (hb : b < Spec.blocks s.inByte) (y x : Fin 4) :
    s.filePixelAddress b y x < Spec.width s.inByte * Spec.height s.inByte :=
  tileAddress_lt (h.place_lt hb).1 (h.place_lt hb).2 y x

/-- The tile at work is the file's next block's. -/
theorem tileAddress_eq (y x : Fin 4) :
    tileAddress u.width u.blockPlace.1 u.blockPlace.2 y.val x.val = s.filePixelAddress k y x := by
  simp only [State.blockPlace, State.tileRows, State.tileCols, h.width, h.height, h.file.opOrder, h.blockIndex,
    State.filePixelAddress]

/-- Decoding the next block. -/
theorem next {v : State} (hk : k < Spec.blocks s.inByte) (hd : BlockDecoded u v) (hv : v.Inv) :
    DecodedUpTo s v (k + 1) := by
  have hn := h.blockCount
  have hindex : v.blockIndex.toNat = k + 1 := by
    have := h.blockIndex
    rw [hd.blockIndex]
    bv_omega
  have hlast : u.blockIndex + 1#64 = u.blockCount ↔ k + 1 = Spec.blocks s.inByte := by
    rw [← BitVec.toNat_inj, ← hd.blockIndex, hindex, hn]
  have htile := hd.tile
  have hother := hd.other
  simp only [h.tileAddress_eq, h.file.inByte, h.blockAddress] at htile hother
  refine ⟨hv, hd.spoil.trans h.clean, h.file.trans hd.file, hd.width.trans h.width, hd.height.trans h.height, hindex, ?_,
    fun b hb y x => ?_, fun a ha => ?_⟩
  · rcases hd.seq with ⟨he, hq⟩ | ⟨hne, hq⟩
    · exact .inr ⟨hq, hlast.1 he⟩
    · exact .inl ⟨hq, Nat.lt_of_le_of_ne hk fun he => hne (hlast.2 he)⟩
  · rcases Nat.lt_succ_iff_lt_or_eq.1 hb with hb | rfl
    · have hdiff : ∀ y' x' : Fin 4, s.filePixelAddress k y' x' ≠ s.filePixelAddress b y x := fun y' x' he => by
        have := h.filePixelAddress_injective hk (Nat.lt_trans hb hk) he
        omega
      rw [hother _ hdiff]
      exact h.stored b hb y x
    · exact htile y x
  · have hpeek : v.outMem.peek a = u.outMem.peek a := hother a fun y x he => by
      have := h.filePixelAddress_lt hk y x
      omega
    rw [← h.outside a ha]
    simp only [State.outByte, State.outLosses, hpeek, hd.outScrambles, hd.file.resets]

/-- The walk goes on over `n` blocks that lie below L, one step for each (R164, R168). -/
theorem runs (n : Nat) {j : Nat} (hn : k + n ≤ Spec.blocks s.inByte) (hlen : 128 + 8 * (k + n) ≤ s.opLen.toNat)
    (hu : u.Undisturbed (n + j)) : ∃ t, u.Runs n t ∧ DecodedUpTo s t (k + n) ∧ t.Undisturbed j := by
  induction n generalizing u k with
  | zero => exact ⟨u, rfl, h, by simpa using hu⟩
  | succ n ih =>
    have hq : u.seq = .blocks := by
      rcases h.seq with ⟨hq, -⟩ | ⟨-, hk⟩
      · exact hq
      · omega
    have hlen' : u.blockAddress + 8 ≤ u.opLen.toNat := by rw [h.blockAddress, h.file.opLen]; omega
    obtain ⟨v, hstep, hd, hhost⟩ := step_block h.inv h.clean hq (fun r hr => Nat.le_trans (by omega) (hu r hr)) hlen'
    have hv := h.next (by omega) hd (stepKeepsSoundness u v h.inv hstep)
    have hwait : v.Undisturbed (n + j) := undisturbed_oneTurnPassed (by rwa [Nat.add_right_comm] at hu) hhost
    obtain ⟨t, hruns, ht, hj⟩ := ih hv (by omega) (by omega) hwait
    have hcount : k + 1 + n = k + (n + 1) := by omega
    exact ⟨t, Nat.add_comm n 1 ▸ runs_add (runs_one hstep) hruns, hcount ▸ ht, hj⟩

end DecodedUpTo

end Sys2Proof.Machine

open Sys2Proof Sys2Proof.Machine

/-- Settles O10: a step waits, is the decoder's turn, or serves a request of the interface, and each answers. -/
theorem soundStepsDoNotStop : Obligations.SoundStepsDoNotStop := by
  unfold Obligations.SoundStepsDoNotStop
  intro s hs hlegal
  have hi := hs.issueEmpty
  cases hb : s.busy with
  | false =>
    cases hh : s.host with
    | nil => exact ⟨s, step_wait hi hh hb⟩
    | cons r rest =>
      rw [step_host hi hh (.inl hb)]
      exact serveHost_answers (hlegal r (by simp [hh]))
  | true =>
    cases hh : s.host with
    | nil => rw [step_turn hi hh hb]; exact decoderTurn_answers hs hb
    | cons r rest =>
      by_cases hr : r.wait = 0
      · rw [step_host hi hh (.inr hr)]
        exact serveHost_answers (hlegal r (by simp [hh]))
      · rw [step_host_waits hi hh hb hr]
        exact decoderTurn_answers (inv_host hs _) hb

/-- Settles O58: TruncatedInput and MalformedHeader are the PARSE visit's, the other three errors the CHECK visit's. -/
theorem firstFailedCheckIsReported : Obligations.FirstFailedCheckIsReported := by
  unfold Obligations.FirstFailedCheckIsReported
  intro s code info hs hu herr
  suffices h : ∃ t, s.Runs (if code ≤ 3 then 1 else 2) t ∧ Rejected s t code info by
    obtain ⟨t, hruns, hseq, hcode, hinfo, hindex, hin, hlen, hie, hout⟩ := h
    exact ⟨t, hruns, hseq, hcode, hinfo, hindex, hin, hlen, hie, hout⟩
  have hparse : s.Runs 1 s.turnPassed.afterParse := runs_one_afterParse hs fun r hr => Nat.le_trans (by decide) (hu r hr)
  unfold Spec.checkError at herr
  split at herr
  · next hl => cases herr; exact ⟨_, hparse, afterParse_truncated hs hl⟩
  next hl =>
  rw [Nat.not_lt] at hl
  split at herr
  · next hstrict => cases herr; exact ⟨_, hparse, afterParse_malformed hs hl hstrict⟩
  next hstrict =>
  obtain ⟨u, hruns, hu, hwait⟩ := runs_to_check hs hu hl hstrict
  have hruns := runs_add hruns (hu.runs_one hwait)
  have hu := hu.turnPassed
  rw [hu.afterCheck_eq] at hruns
  split at herr
  · next hcode =>
    cases herr
    rw [if_pos hcode] at hruns
    exact ⟨_, hruns, rejected_raise hu.file hu.blockIndex hu.outByte hu.pixels.le .unsupportedFormat hu.fourcc⟩
  next hcode =>
  rw [if_neg hcode] at hruns
  split at herr
  · next halign =>
    cases herr
    rw [if_pos halign] at hruns
    exact ⟨_, hruns, rejected_raise hu.file hu.blockIndex hu.outByte hu.pixels.le .blockAlignmentError hu.alignBits⟩
  next halign =>
  rw [if_neg halign] at hruns
  split at herr <;> cases herr
  next hbig =>
  rw [if_pos hbig] at hruns
  exact ⟨_, hruns, rejected_raise hu.counted hu.blockIndex hu.outByte hu.pixels.le .capacityExceeded rfl⟩

/-- Settles O59: two steps come to the block walk, which decodes a block a step to its end in DONE. -/
theorem operationDecodesTheImage : Obligations.OperationDecodesTheImage := by
  unfold Obligations.OperationDecodesTheImage
  intro s hs hu hpass hlen
  obtain ⟨u, hstart, hu0, hwait⟩ := runs_to_blocks hs hu hpass
  obtain ⟨t, hwalk, ht, -⟩ := hu0.runs (Spec.blocks s.inByte) (j := 0) (by omega) (by omega) (by simpa using hwait)
  rw [Nat.zero_add] at ht
  have hdone : t.seq = .done := by
    rcases ht.seq with ⟨-, hlt⟩ | ⟨hq, -⟩
    · exact absurd hlt (Nat.lt_irrefl _)
    · exact hq
  have hcode := (ht.inv.codeZero (by simp [ht.clean]) (by simp [hdone])).1
  refine ⟨t, Nat.add_comm 2 _ ▸ runs_add hstart hwalk, hdone, hcode, ht.blockIndex, ht.blockCount, ht.width, ht.height,
    ht.file.inMem, fun b hb y x => ?_, ht.outside⟩
  intro place
  have hplace : place = placeOf s.opOrder (Spec.height s.inByte / 4) (Spec.width s.inByte / 4) b := place_eq_placeOf _ _ _ _
  rw [hplace]
  exact ht.stored b hb y x

/-- Settles O5: a step with nothing to do answers the same state, and so do any number of them. -/
theorem waitsWhenNoOperationRuns : Obligations.WaitsWhenNoOperationRuns := by
  unfold Obligations.WaitsWhenNoOperationRuns
  intro k s hi hh hq
  have hb : s.busy = false := by
    rw [Bool.eq_false_iff, ne_eq, busy_iff]
    rcases hq with hq | hq | hq <;> simp [hq]
  induction k with
  | zero => rfl
  | succ k ih => exact runs_add ih (runs_one (step_wait hi hh hb))

/-- Settles O36: the word at 0x54 is compared with "BC4U", byte by byte. -/
theorem formatCheckComparesFourBytes : Obligations.FormatCheckComparesFourBytes := by
  unfold Obligations.FormatCheckComparesFourBytes
  intro s hcap
  rw [exec_dsFormatCheck hcap, ← inWord_eq_codeBc4u]
  split
  · next h => exact ⟨_, rfl, fun _ => rfl, fun hne => absurd h hne⟩
  · next h => exact ⟨_, rfl, fun he => absurd he h, fun _ => raise_entered s .unsupportedFormat s.hdrFourcc⟩

/-- Settles O37: the conditions of the two failed-check bits are the remainders of the width and of the height. -/
theorem alignCheckNamesWhatIsMisaligned : Obligations.AlignCheckNamesWhatIsMisaligned := by
  unfold Obligations.AlignCheckNamesWhatIsMisaligned
  refine fun s => ⟨_, exec_dsAlignCheck s, fun ⟨hw, hh⟩ => if_neg (by simp [hw, hh]), fun hwrong => ?_⟩
  rw [if_pos hwrong, ← alignBits_toNat]
  exact raise_entered s .blockAlignmentError _

/-- Settles O38: the product is below `2^64`, and of whole tiles it is sixteen times their number. -/
theorem blockCountIsExact : Obligations.BlockCountIsExact := by
  unfold Obligations.BlockCountIsExact
  refine fun s => ⟨_, exec_dsBlockCount s, counted_blockCount_exact s, fun hw hh => ⟨?_, ?_⟩, rfl⟩
  · rw [counted_blockCount_exact]
    exact blocks_eq_tiles hw hh
  · have h := pixels_lt s
    rw [counted_blockCount_exact]
    omega

/-- Settles O43: the sixteen cells of the tile are written, and with `W >= 4` no two of them meet. -/
theorem tileWriteStoresSixteenBytes : Obligations.TileWriteStoresSixteenBytes := by
  unfold Obligations.TileWriteStoresSixteenBytes
  refine fun s hexists => ⟨_, exec_taTileWrite_exists hexists, fun hw y x => ?_, fun a ha => ?_, rfl⟩
  · have hcell : (s.pixelAddress y.val x.val, s.lane.tile[y][x]) ∈ s.tileCells := (mem_tileCells s _).2 ⟨y, x, rfl⟩
    have hpeek := peek_pokeAll_mem s.tileCells s.outMem _ _ (tileCells_nodup s hw) hcell
    simp only [State.pixelAddress, State.width] at hpeek
    simp only [State.outByte, hpeek]
  · have hpeek : (s.outMem.pokeAll s.tileCells).peek a = s.outMem.peek a := peek_pokeAll_other _ _ _ fun c hc hca => by
      obtain ⟨y, x, rfl⟩ := (mem_tileCells s c).1 hc
      exact ha y x hca.symm
    simp only [State.outByte, State.outLosses, hpeek]

/-- Settles O44: the places are the grid's, each some block's and no two blocks'; an address of the PixelArray is a pixel's
of one tile of the grid, and an address of a tile gives its place back. -/
theorem tilesPartitionThePixelArray : Obligations.TilesPartitionThePixelArray := by
  unfold Obligations.TilesPartitionThePixelArray
  intro s hw hh hpixels
  refine ⟨fun b t => placesBlock_grid hw hh, fun r c hr hc => ?_, fun a ha => ?_, fun b t hp => ⟨?_, fun c hc => ?_⟩⟩
  · obtain ⟨b, t, hp, rfl, rfl⟩ := exists_placesBlock hw hh hr hc
    exact ⟨b, t, hp, rfl, rfl, fun b' t' hp' => placesBlock_unique hw hh hp hp'⟩
  · obtain ⟨r, c, y, x, hr, hc, rfl⟩ := exists_tileAddress hw hh (Nat.mul_comm _ _ ▸ ha)
    obtain ⟨b, t, hp, rfl, rfl⟩ := exists_placesBlock hw hh hr hc
    refine ⟨b, t, hp, exists_mem_tileCells.2 ⟨y, x, by rw [placesBlock_width hw hh hp]; rfl⟩, fun b' t' hp' ha' => ?_⟩
    obtain ⟨y', x', ha'⟩ := exists_mem_tileCells.1 ha'
    rw [placesBlock_width hw hh hp'] at ha'
    obtain ⟨hr', hc', -, -⟩ := tileAddress_injective (placesBlock_grid hw hh hp').2 hc ha'
    exact placesBlock_unique hw hh hp hp' hr' hc'
  · have hpos : s.width ≠ 0 := fun h => hpixels (by rw [State.pixels, h, Nat.zero_mul])
    have hwidth : 4 ≤ t.width := by
      rw [placesBlock_width hw hh hp]
      change s.width % 4 = 0 at hw
      omega
    exact tileCells_nodup t hwidth
  · obtain ⟨y, x, rfl⟩ := (mem_tileCells t c).1 hc
    obtain ⟨hrow, hcol⟩ := placesBlock_grid hw hh hp
    obtain ⟨-, rfl⟩ := (placesBlock_iff hw hh).1 hp
    have hlt : tileAddress _ _ _ y.val x.val < _ := tileAddress_lt hrow hcol y x
    rwa [Nat.mul_comm] at hlt

/-- Settles O3: each way a step can go, up to the operations it runs. -/
theorem stepRunsTheDecodedOperation : Obligations.StepRunsTheDecodedOperation := by
  unfold Obligations.StepRunsTheDecodedOperation
  refine ⟨fun s nbits w i h => ?_, fun s c i hi hd => (step_issue hi).trans (runCode_decoded hd _),
    fun s hi hb hc => ⟨fun hh => ?_, fun r rest hh hr => ?_⟩,
    fun s => ⟨enterVisit_other, fun hq l ls hl => ?_, fun hq hl => ?_⟩,
    fun s r rest w off data i hi hh hr he ha hoff hd => ?_⟩
  · obtain ⟨c, hc, hd⟩ := decodeTableWord_eq_some h
    have hplaced : s.withFetchWord nbits w = { s with issue := some c } := by
      simp only [State.withFetchWord, State.placeTableWord, hc]
    rw [hplaced, step_issue rfl]
    exact runCode_decoded hd _
  · rw [step_turn hi hh hb, decoderTurn_clean hc]; rfl
  · rw [step_host_waits hi hh hb hr]; exact decoderTurn_clean hc
  · simp only [enterVisit_blocks hq, State.nextLane, hl]
  · simp only [enterVisit_blocks hq, State.nextLane, hl]
  · have hshape : ¬ (4 ≠ 4 ∨ off % 4 ≠ 0) := by simp [ha]
    rw [step_host hi hh hr, he]
    exact (if_neg hshape).trans ((if_neg (Nat.not_le.2 hoff)).trans (runCode_decoded hd _))

/-- Settles O4: the places of the phases' lists, how a visit goes on after an operation, and the ways out of PARSE and
CHECK. -/
theorem sequencerGoesOn : Obligations.SequencerGoesOn := by
  unfold Obligations.SequencerGoesOn
  refine ⟨phaseOps_getElem?_iff, ⟨rfl, rfl, rfl, rfl, rfl, rfl⟩, fun i is s t h hq => ?_,
    fun i is s t h hq => runOps_leave h hq,
    fun s hq => by rw [hq]; rfl, fun s hq => by rw [hq]; rfl, fun i s t hi h => parseOp_seq hi h, fun s t h => ?_⟩
  · rw [hq]; exact runOps_next h hq
  · rw [exec_dsCapacityCheck] at h
    cases h
    split_ifs <;> simp

/-- Settles O17: an accepted START stores the word's bits and clears the operation's registers; BUSY, it is ignored. -/
theorem startBeginsAnOperation : Obligations.StartBeginsAnOperation := by
  unfold Obligations.StartBeginsAnOperation
  refine ⟨fun wd s hb => congrArg _ (writeStart_busy hb), fun wd s hb => ⟨_, exec_cmdStart_idle hb, rfl,
    tileOrderOf_eq_rowMajor _, rfl, rfl, rfl, rfl,
    ⟨rfl, rfl, rfl, rfl, rfl, rfl, rfl, rfl, rfl, rfl, rfl⟩, rfl, rfl, ?_, rfl⟩⟩
  simp [State.irq]

/-- Settles O39: the three ways that DS.CAPACITY_CHECK goes. -/
theorem capacityCheckEndsThePhase : Obligations.CapacityCheckEndsThePhase := by
  unfold Obligations.CapacityCheckEndsThePhase
  refine fun s => ⟨_, exec_dsCapacityCheck s, fun hbig => ?_, fun hfits hzero => ?_, fun hfits hsome => ?_⟩
  · rw [if_pos (by exact hbig)]
    exact raise_entered s .capacityExceeded 0#32
  · rw [if_neg (by exact Nat.not_lt.2 hfits), if_pos (eq_zero_iff_toNat.2 hzero)]
    exact ⟨rfl, finish_lanes s .done⟩
  · rw [if_neg (by exact Nat.not_lt.2 hfits), if_neg (fun h => hsome (eq_zero_iff_toNat.1 h))]
    rfl

/-- Settles O40: a block that does not lie below L raises; any other is fetched, below L and so in IN. -/
theorem blockFetchTakesEightBytes : Obligations.BlockFetchTakesEightBytes := by
  unfold Obligations.BlockFetchTakesEightBytes
  intro s hcap
  rcases Nat.lt_or_ge s.opLen.toNat (s.blockAddress + 8) with hlen | hlen
  · refine ⟨_, exec_sqBlockFetch_short hlen, fun _ => ⟨?_, rfl⟩, fun h => absurd hlen (Nat.not_lt.2 h)⟩
    rw [← lowWord_toNat]
    exact raise_entered s .invalidBlockSize _
  · exact ⟨_, exec_sqBlockFetch_whole hcap hlen, fun h => absurd h (Nat.not_lt.2 hlen), fun _ => ⟨rfl, tab8_get _⟩⟩

/-- Settles O41: where there is a tile, the place is the order's. -/
theorem tilePlaceFollowsTheOrder : Obligations.TilePlaceFollowsTheOrder := by
  unfold Obligations.TilePlaceFollowsTheOrder
  intro s hw hh
  have hr : s.tileRows ≠ 0 := Nat.ne_zero_of_lt (Nat.div_pos hh (by decide))
  have hc : s.tileCols ≠ 0 := Nat.ne_zero_of_lt (Nat.div_pos hw (by decide))
  refine ⟨_, exec_taTilePlace_tiles hr hc, fun ho => ?_, fun ho => ?_, rfl⟩ <;>
    simp only [State.placed, ho] <;> exact ⟨rfl, rfl⟩

/-- Settles O42: without a tile row or column the place is two free draws. -/
theorem tilePlaceWithoutATileIsFree : Obligations.TilePlaceWithoutATileIsFree := by
  unfold Obligations.TilePlaceWithoutATileIsFree
  intro s h
  have hnone : s.tileRows = 0 ∨ s.tileCols = 0 := h.symm.imp Nat.div_eq_of_lt Nat.div_eq_of_lt
  exact ⟨_, exec_taTilePlace_noTile hnone, rfl⟩

/-- Settles O45: the index goes up by one, and is N exactly in the way that ends the operation. -/
theorem advanceCountsBlocks : Obligations.AdvanceCountsBlocks := by
  unfold Obligations.AdvanceCountsBlocks
  intro s
  have hup : s.blockIndex.toNat < s.blockCount.toNat → (s.blockIndex + 1#64).toNat = s.blockIndex.toNat + 1 := by bv_omega
  rw [exec_sqAdvance_eq]
  split
  · next hlast =>
    exact ⟨_, rfl, rfl, hup, fun _ => ⟨finish_lanes _ .done, rfl⟩, fun hne => absurd (congrArg BitVec.toNat hlast) hne⟩
  · next hmore => exact ⟨_, rfl, rfl, hup, fun he => absurd (BitVec.eq_of_toNat_eq he) hmore, fun _ => rfl⟩

end

section
/-! PROOFS of the family 42_block_decompress: what each operation of the single-block decompression does (O46 to O50, O52), the
order of the palette it builds (O51), and DECODE_BLOCK for every block (O57). -/

namespace Sys2Proof.Machine

/-! ## The bytes of a block -/

/-- The bytes of a block, by address from 0 (42_block_decompress.md R180). -/
def blockBytes (blk : Vector Byte 8) (k : Nat) : Byte := blk.toList.getD k 0#8

theorem blockBytes_of_lt (blk : Vector Byte 8) {k : Nat} (hk : k < 8) : blockBytes blk k = blk[k] := by
  simp [blockBytes, hk]

theorem getElem_eq_blockBytes (blk : Vector Byte 8) (k : Fin 8) : blk[k] = blockBytes blk (0 + k.val) := by
  rw [Nat.zero_add, blockBytes_of_lt blk k.isLt]
  rfl

/-- A little-endian sum is its high bytes' sum above its low bytes' (20_memory.md R66). -/
theorem leSum_add (buf : Nat → Byte) (off m n : Nat) :
    Spec.leSum buf off (m + n) = Spec.leSum buf (off + m) n * 2 ^ (8 * m) + Spec.leSum buf off m := by
  unfold Spec.leSum
  rw [Finset.sum_range_add, Nat.add_comm, Finset.sum_mul]
  congr 1
  refine Finset.sum_congr rfl fun i _ => ?_
  rw [Nat.add_assoc, Nat.mul_assoc, ← Nat.pow_add, Nat.mul_add, Nat.add_comm (8 * m)]

/-- The index field of a latched block (42_block_decompress.md R182). -/
theorem indexField_leSum (blk : Vector Byte 8) : (indexField blk).toNat = Spec.leSum (blockBytes blk) 2 6 :=
  indexField_toNat (getElem_eq_blockBytes blk)

/-- The index field is the bytes 7 to 2, most significant first (R182). -/
theorem indexField_eq_append (blk : Vector Byte 8) :
    indexField blk = blk[7] ++ blk[6] ++ blk[5] ++ blk[4] ++ blk[3] ++ blk[2] := by
  apply BitVec.eq_of_toNat_eq
  rw [indexField_leSum, toNat_append_eq, toNat_append_eq, toNat_append_eq, toNat_append_eq, toNat_append_eq]
  simp only [Spec.leSum, Finset.sum_range_succ, Finset.sum_range_zero, Nat.reduceAdd, Nat.reduceLT,
    blockBytes_of_lt]
  omega

/-! ## Indices in pixel order -/

/-- The table whose entry `p` is entry `15 - p` of another one lists that one backwards. -/
theorem tab16_rev_toList {α : Type} (v : Vector α 16) : (tab16 fun p => v[p.rev]).toList = v.toList.reverse := by
  refine List.ext_getElem (by simp) fun i _ _ => ?_
  simp [Fin.rev]

/-! ## Palette entries between the references -/

/-- The mean of weight 0 for A1 is A0. -/
theorem interpolate_zero {d : Nat} (hd : 0 < d) (a0 a1 : Byte) : interpolate d 0 a0 a1 = a0 :=
  BitVec.eq_of_toNat_eq (by rw [interpolate_toNat d 0 a0 a1 hd (Nat.zero_le d)]; simp [hd])

/-- A mean seen from the other reference has the other weight. -/
theorem interpolate_swap {d j k : Nat} (a0 a1 : Byte) (hsum : j + k = d) :
    interpolate d k a0 a1 = interpolate d j a1 a0 := by
  rw [interpolate, interpolate, Nat.add_comm, show d - k = j by omega, show d - j = k by omega]

/-- The mean of weight 0 for A0 is A1. -/
theorem interpolate_self {d : Nat} (hd : 0 < d) (a0 a1 : Byte) : interpolate d d a0 a1 = a1 :=
  (interpolate_swap a0 a1 (Nat.zero_add d)).trans (interpolate_zero hd a1 a0)

/-- Between equal references every mean is their value (R200). -/
theorem interpolate_equal {d k : Nat} (hd : 0 < d) (hk : k ≤ d) (v : Byte) : interpolate d k v v = v :=
  BitVec.eq_of_toNat_eq (by
    rw [interpolate_toNat d k v v hd hk, ← Nat.mul_add, Nat.sub_add_cancel hk, Nat.mul_div_cancel _ hd])

/-- From the greater reference to the smaller the means do not rise (R199). -/
theorem interpolate_succ_le {d k : Nat} {a0 a1 : Byte} (hk : k < d) (h : a1.toNat ≤ a0.toNat) :
    interpolate d (k + 1) a0 a1 ≤ interpolate d k a0 a1 := by
  obtain ⟨j, rfl⟩ : ∃ j, d = j + 1 + k := ⟨d - k - 1, by omega⟩
  rw [BitVec.le_def, interpolate_weights (j := j) a0 a1 (by omega) (by omega),
    interpolate_weights (j := j + 1) a0 a1 (by omega) rfl]
  refine Nat.div_le_div_right ?_
  rw [Nat.succ_mul, Nat.succ_mul]
  omega

/-- From the smaller reference to the greater the means do not fall (R199). -/
theorem interpolate_le_succ {d k : Nat} {a0 a1 : Byte} (hk : k < d) (h : a0.toNat ≤ a1.toNat) :
    interpolate d k a0 a1 ≤ interpolate d (k + 1) a0 a1 := by
  obtain ⟨j, rfl⟩ : ∃ j, d = j + 1 + k := ⟨d - k - 1, by omega⟩
  rw [interpolate_swap (j := j + 1) a0 a1 rfl, interpolate_swap (j := j) a0 a1 (by omega)]
  exact interpolate_succ_le (by omega) h

/-- The 6-value palette is non-increasing from A0 to A1 (R199). -/
theorem paletteOf_true_antitone {a0 a1 : Byte} (h : a1.toNat ≤ a0.toNat) :
    let pal := paletteOf true a0 a1
    pal[0] ≥ pal[2] ∧ pal[2] ≥ pal[3] ∧ pal[3] ≥ pal[4] ∧ pal[4] ≥ pal[5] ∧ pal[5] ≥ pal[6] ∧ pal[6] ≥ pal[7] ∧
      pal[7] ≥ pal[1] := by
  have hfall : ∀ k, k < 7 → interpolate 7 (k + 1) a0 a1 ≤ interpolate 7 k a0 a1 := fun k hk => interpolate_succ_le hk h
  have hfirst := hfall 0 (by decide)
  have hlast := hfall 6 (by decide)
  rw [interpolate_zero (by decide)] at hfirst
  rw [interpolate_self (by decide)] at hlast
  exact ⟨hfirst, hfall 1 (by decide), hfall 2 (by decide), hfall 3 (by decide), hfall 4 (by decide),
    hfall 5 (by decide), hlast⟩

/-- The 4-value palette is non-decreasing from A0 to A1 (R199). -/
theorem paletteOf_false_monotone {a0 a1 : Byte} (h : a0.toNat ≤ a1.toNat) :
    let pal := paletteOf false a0 a1
    pal[0] ≤ pal[2] ∧ pal[2] ≤ pal[3] ∧ pal[3] ≤ pal[4] ∧ pal[4] ≤ pal[5] ∧ pal[5] ≤ pal[1] := by
  have hrise : ∀ k, k < 5 → interpolate 5 k a0 a1 ≤ interpolate 5 (k + 1) a0 a1 := fun k hk => interpolate_le_succ hk h
  have hfirst := hrise 0 (by decide)
  have hlast := hrise 4 (by decide)
  rw [interpolate_zero (by decide)] at hfirst
  rw [interpolate_self (by decide)] at hlast
  exact ⟨hfirst, hrise 1 (by decide), hrise 2 (by decide), hrise 3 (by decide), hlast⟩

/-- Both modes' palettes begin with the references (R189). -/
theorem paletteOf_references (mode : Bool) (a0 a1 : Byte) :
    (paletteOf mode a0 a1)[0] = a0 ∧ (paletteOf mode a0 a1)[1] = a1 := by
  cases mode <;> exact ⟨rfl, rfl⟩

/-- The palette of equal references (R200). -/
theorem paletteOf_equal (v : Byte) : paletteOf (modeOf v v) v v = #v[v, v, v, v, v, v, 0#8, 255#8] := by
  have hmode : modeOf v v = false := (modeOf_eq_false_iff v v).2 le_rfl
  have hmean : ∀ k, k ≤ 5 → interpolate 5 k v v = v := fun k hk => interpolate_equal (by decide) hk v
  rw [hmode]
  show #v[v, v, interpolate 5 1 v v, interpolate 5 2 v v, interpolate 5 3 v v, interpolate 5 4 v v, 0#8, 255#8] = _
  rw [hmean 1 (by decide), hmean 2 (by decide), hmean 3 (by decide), hmean 4 (by decide)]

/-! ## The palette operations, mode by mode -/

/-- BD.PAL6 acts in the 6-value mode only (R190). -/
theorem exec_bdPal6 (s : State) : exec .bdPal6 s = .next (if s.lane.mode then { s with
    lane.pal := tab8 fun i => if 2 ≤ i.val then interpolate 7 (i.val - 1) s.lane.a0 s.lane.a1 else s.lane.pal[i] } else s) := by
  simp only [exec, execBdPal6]
  split <;> rfl

/-- BD.PAL4 acts in the 4-value mode only (R191). -/
theorem exec_bdPal4 (s : State) : exec .bdPal4 s = .next (if s.lane.mode then s else { s with
    lane.pal := tab8 fun i =>
      if 2 ≤ i.val ∧ i.val ≤ 5 then interpolate 5 (i.val - 1) s.lane.a0 s.lane.a1 else s.lane.pal[i] }) := by
  simp only [exec, execBdPal4]
  split <;> rfl

/-- BD.PAL4_CONST acts in the 4-value mode only (R192). -/
theorem exec_bdPal4Const (s : State) : exec .bdPal4Const s = .next (if s.lane.mode then s else { s with
    lane.pal := (s.lane.pal.set 6 0#8).set 7 255#8 }) := by
  simp only [exec, execBdPal4Const]
  split <;> rfl

/-- Two entries written hold their values, and every other entry stays. -/
theorem set_set_getElem {α : Type} {n i j : Nat} (v : Vector α n) (a b : α) (hi : i < n) (hj : j < n) (hne : j ≠ i) :
    let w := (v.set i a hi).set j b hj
    w[i] = a ∧ w[j] = b ∧ ∀ k : Fin n, k.val ≠ i → k.val ≠ j → w[k] = v[k] :=
  ⟨(Vector.getElem_set_ne hj hi hne).trans (Vector.getElem_set_self hi), Vector.getElem_set_self hj,
    fun k hki hkj => (Vector.getElem_set_ne hj k.isLt hkj.symm).trans (Vector.getElem_set_ne hi k.isLt hki.symm)⟩

end Sys2Proof.Machine

open Sys2Proof Sys2Proof.Machine

/-- Settles O47: the sum of bytes 2 to 7 is the sum of bytes 5 to 7 above the sum of bytes 2 to 4. -/
theorem indexFieldIsLittleEndian : Obligations.IndexFieldIsLittleEndian := by
  unfold Obligations.IndexFieldIsLittleEndian
  exact fun s => ⟨_, rfl, rfl, indexField_eq_append s.lane.blk, indexField_leSum s.lane.blk,
    (indexField_leSum s.lane.blk).trans (leSum_add (blockBytes s.lane.blk) 2 3 3)⟩

/-- Settles O48: the order of the groups is turned around, so SEL[p] is ext[15 - p]. -/
theorem indicesAreSplitAndOrdered : Obligations.IndicesAreSplitAndOrdered := by
  unfold Obligations.IndicesAreSplitAndOrdered
  refine ⟨fun s => ⟨_, rfl, rfl, fun j => ?_⟩, fun s => ⟨_, rfl, rfl, ?_⟩, fun s => ⟨_, rfl, fun p => ?_⟩⟩
  · rw [tab16_get, extractedIndex_toNat]
  · rw [tab16_rev_toList, ← List.reverse_append, List.take_append_drop]
  · rw [tab16_get, tab16_get, extractedIndex_rev_toNat]

/-- Settles O50: each operation acts in its mode only, on its entries, and an interpolated entry has the weights of its
number. -/
theorem paletteOperationsWriteTheEntries : Obligations.PaletteOperationsWriteTheEntries := by
  unfold Obligations.PaletteOperationsWriteTheEntries
  have sevenths (s : State) {j k : Nat} (h : j + k = 7) := interpolate_weights s.lane.a0 s.lane.a1 (by decide : 0 < 7) h
  have fifths (s : State) {j k : Nat} (h : j + k = 5) := interpolate_weights s.lane.a0 s.lane.a1 (by decide : 0 < 5) h
  refine ⟨fun s => ?_, fun s hm => ?_, fun s hm => ⟨_, exec_bdPal6 s, ?_⟩, fun s hm => ?_,
    fun s hm => ⟨_, exec_bdPal4 s, ?_⟩, fun s hm => ?_, fun s hm => ⟨_, exec_bdPal4Const s, ?_⟩⟩
  · obtain ⟨h0, h1, hother⟩ := set_set_getElem s.lane.pal s.lane.a0 s.lane.a1 (i := 0) (j := 1) (by decide) (by decide)
      (by decide)
    exact ⟨_, rfl, h0, h1, fun i hi => hother i (by omega) (by omega), rfl⟩
  · rw [exec_bdPal6, hm]; rfl
  · rw [hm]
    exact ⟨rfl, rfl, rfl, sevenths s rfl, sevenths s rfl, sevenths s rfl, sevenths s rfl, sevenths s rfl, sevenths s rfl⟩
  · rw [exec_bdPal4, hm]; rfl
  · rw [hm]
    exact ⟨rfl, rfl, rfl, rfl, rfl, fifths s rfl, fifths s rfl, fifths s rfl, fifths s rfl⟩
  · rw [exec_bdPal4Const, hm]; rfl
  · obtain ⟨h6, h7, hother⟩ := set_set_getElem s.lane.pal 0#8 255#8 (i := 6) (j := 7) (by decide) (by decide) (by decide)
    rw [hm]
    exact ⟨rfl, congrArg BitVec.toNat h6, congrArg BitVec.toNat h7, fun i hi => hother i (by omega) (by omega)⟩

/-- Settles O51: the five operations build the palette of the references' mode, whose interpolated entries go from A0 to A1 by
steps of one weight. -/
theorem paletteIsOrdered : Obligations.PaletteIsOrdered := by
  unfold Obligations.PaletteIsOrdered
  intro s
  obtain ⟨h0, h1⟩ := paletteOf_references (modeOf s.lane.a0 s.lane.a1) s.lane.a0 s.lane.a1
  refine ⟨_, execAll_paletteOps s, h0, h1, fun hgt => ?_, fun hle => ?_, fun v hv0 hv1 => ?_⟩
  · rw [(modeOf_iff _ _).2 hgt]
    exact paletteOf_true_antitone hgt.le
  · rw [(modeOf_eq_false_iff _ _).2 hle]
    exact paletteOf_false_monotone hle
  · rw [hv0, hv1]
    exact paletteOf_equal v

/-- Settles O57: the operations answer the decompressed latches, whose tile is R195's of the latched bytes. -/
theorem decompressionIsDecodeBlock : Obligations.DecompressionIsDecodeBlock := by
  unfold Obligations.DecompressionIsDecodeBlock
  exact fun s => ⟨_, execAll_decompressOps s, decompressed_tile (getElem_eq_blockBytes s.lane.blk), rfl, rfl, rfl, rfl⟩

/-- Settles O46: the operation's definition. -/
theorem refUnpackTakesTwoBytes : Obligations.RefUnpackTakesTwoBytes := by
  unfold Obligations.RefUnpackTakesTwoBytes
  exact fun _ => rfl

/-- Settles O49: the mode is the unsigned compare of the references. -/
theorem modeSelectComparesReferences : Obligations.ModeSelectComparesReferences := by
  unfold Obligations.ModeSelectComparesReferences
  exact fun s => ⟨_, rfl, modeOf_iff s.lane.a0 s.lane.a1, rfl⟩

/-- Settles O52: a pixel is the entry of its index, and the place of a pixel in the tile gives its number. -/
theorem selectAndReshape : Obligations.SelectAndReshape := by
  unfold Obligations.SelectAndReshape
  refine ⟨fun s => ⟨_, rfl, rfl, fun p => ?_⟩, fun s => ⟨_, rfl, rfl, fun y x => ?_⟩⟩
  · rw [tab16_get]
    exact Vector.getElem?_toList.trans (Vector.getElem?_eq_getElem (entryNumber s.lane.sel[p]).isLt)
  · rw [tab4_get, tab4_get]
    exact Vector.getElem?_toList.trans (Vector.getElem?_eq_getElem (pixelNumber y x).isLt)

end

section
/-! PROOFS of the family 60_exceptions: when the interrupt level is high, rises and falls (O16), and how an operation ends whose
data region is too short for its blocks (O60). -/

namespace Sys2Proof.Machine

/-! ## The interrupt level -/

theorem irq_iff {s : State} : s.irq = true ↔ s.ctrlIe = true ∧ (s.seq = .done ∨ s.seq = .error) := by
  simp only [State.irq, Bool.and_eq_true, Bool.or_eq_true, beq_iff_eq]

theorem irq_of_stopped {s : State} (h : s.seq = .done ∨ s.seq = .error) : s.irq = s.ctrlIe := by
  rw [Bool.eq_iff_iff, irq_iff, and_iff_left h]

/-- STATUS shows 2 or 3 exactly in the phases DONE and ERROR (10_state.md R36). -/
theorem statusOf_stopped_iff (p : Phase) : statusOf p = 2#2 ∨ statusOf p = 3#2 ↔ p = .done ∨ p = .error := by
  cases p <;> decide

/-- The interrupt is low while an operation runs. -/
theorem busy_eq_false_of_irq {s : State} (h : s.irq = true) : s.busy = false := by
  obtain ⟨-, hq | hq⟩ := irq_iff.1 h <;> simp only [State.busy, hq]

/-! ## What keeps the interrupt enable -/

/-- An operation of a block keeps the interrupt enable. -/
theorem blockOp_ctrlIe {i : Instr} (hi : i ∈ blockOps) {s t : State} (h : exec i s = .next t) : t.ctrlIe = s.ctrlIe := by
  rw [blockOps_eq, List.mem_cons, List.mem_append] at hi
  rcases hi with rfl | hi | hi
  · rcases exec_sqBlockFetch_cases h with rfl | ht
    · rfl
    · rw [ht]
  · rw [exec_decompress hi h]
  · simp only [List.mem_cons, List.not_mem_nil, or_false] at hi
    rcases hi with rfl | rfl | rfl
    · rw [exec_taTilePlace_eq h]
    · rw [(exec_taTileWrite_eq h).2]
    · rcases exec_sqAdvance_cases h with ⟨-, rfl⟩ | ⟨-, rfl⟩ <;> rfl

theorem afterParse_ctrlIe (s : State) : s.afterParse.ctrlIe = s.ctrlIe := by
  unfold State.afterParse
  split_ifs <;> simp

theorem afterCheck_ctrlIe (s : State) : s.afterCheck.ctrlIe = s.ctrlIe := by
  unfold State.afterCheck
  split_ifs <;> simp

/-- The decoder's turn keeps the interrupt enable (10_state.md R29). -/
theorem decoderTurn_ctrlIe {s t : State} (hs : s.Inv) (hb : s.busy = true) (h : decoderTurn s = .next t) :
    t.ctrlIe = s.ctrlIe := by
  have hcap : 0x58 ≤ s.inCapacity := Nat.le_trans (by decide) hs.inCapacityLegal.1
  cases hsp : s.spoil with
  | clean =>
    rw [decoderTurn_clean hsp] at h
    rcases busy_iff.1 hb with hq | hq | hq
    · rw [visit_parse hq hcap] at h; cases h; exact afterParse_ctrlIe s
    · rw [visit_check hq hcap] at h; cases h; exact afterCheck_ctrlIe s
    · rw [visit_block hq] at h
      exact runOps_induction (P := fun u => u.ctrlIe = s.ctrlIe) (by rw [nextLane_eq])
        (fun i hi u v hu hv => (blockOp_ctrlIe hi hv).trans hu) (fun u hu => hu) h
  | running => rw [decoderTurn_running hsp] at h; cases h; exact (spoiledVisit_frame hb).ctrlIe
  | ended =>
    rw [busy_iff] at hb
    rcases hs.endedStopped hsp with hq | hq <;> simp [hq] at hb

/-- A CTRL write that is not ignored stores its bits, and starts an operation if its bit 0 is 1 (10_state.md R34). -/
theorem writePort_ctrl_idle {s : State} {data : Word} (hb : s.busy = false) :
    s.writePort offCtrl data = if data.getLsbD 0 = true then (s.configure data).start else s.configure data := by
  unfold State.writePort
  rw [if_pos rfl, writeStart_idle hb, writeConfig_idle hb]

/-- Outside an operation a register write keeps the interrupt enable, or is a CTRL write that stores its bit 3 (R33, R34). -/
theorem writePort_ctrlIe {s : State} (off : Byte) (data : Word) (hb : s.busy = false) :
    (s.writePort off data).ctrlIe = s.ctrlIe ∨ (off = offCtrl ∧ (s.writePort off data).ctrlIe = data.getLsbD 3) := by
  by_cases ho : off = offCtrl
  · rw [ho, writePort_ctrl_idle hb]
    refine .inr ⟨rfl, ?_⟩
    split <;> rfl
  · unfold State.writePort
    rw [if_neg ho, writeLen_idle hb]
    split <;> exact .inl rfl

theorem hostWriteIn_ctrlIe {s t : State} {a : Nat} {bs : List Byte} (h : s.hostWriteIn a bs = .next t) :
    t.ctrlIe = s.ctrlIe := by
  unfold State.hostWriteIn State.spoilOperation at h
  split_ifs at h <;> cases h
  · rfl
  · rfl
  · exact spoilResults_ctrlIe _

theorem hostReadOut_ctrlIe {s t : State} {a : Nat} (h : s.hostReadOut a = .next t) : t.ctrlIe = s.ctrlIe := by
  unfold State.hostReadOut at h
  split_ifs at h <;> cases h <;> rfl

/-- Of the encoded offsets only 0 is CTRL's (R30). -/
theorem eq_zero_of_offCtrl {off : Nat} (h : off < 256) (ho : BitVec.ofNat 8 off = offCtrl) : off = 0 := by
  have := congrArg BitVec.toNat ho
  simp only [BitVec.toNat_ofNat, offCtrl] at this
  omega

/-- Outside an operation a host event keeps the interrupt enable, unless it is a reset or a CTRL write, which stores its bit 3
(R33, R34). -/
theorem serveHost_ctrlIe {e : HostEvent} {s t : State} (hb : s.busy = false) (h : serveHost e s = .next t) :
    t.ctrlIe = s.ctrlIe ∨ e = .reset ∨ ∃ d, e = .access true 0 4 d ∧ t.ctrlIe = d.getLsbD 3 := by
  cases e with
  | access write off bytes data =>
    simp only [serveHost] at h
    obtain ⟨rfl, ha⟩ := hostAccess_shape h
    rw [hostAccess_aligned s ha] at h
    cases h
    split
    · left; split <;> rfl
    next hoff =>
    cases write with
    | false =>
      obtain ⟨p, a, d, g, hread⟩ := readPort_cases s (BitVec.ofNat 8 off)
      exact .inl (by rw [if_neg Bool.false_ne_true, hread])
    | true =>
      rcases writePort_ctrlIe (BitVec.ofNat 8 off) data hb with hie | ⟨ho, hie⟩
      · exact .inl hie
      · exact .inr (.inr ⟨data, by rw [eq_zero_of_offCtrl (Nat.not_le.1 hoff) ho], hie⟩)
  | writeIn a bs => exact .inl (hostWriteIn_ctrlIe h)
  | readOut a => exact .inl (hostReadOut_ctrlIe h)
  | reset => exact .inr (.inl rfl)

/-! ## What lowers the interrupt -/

/-- The host events that lower the interrupt of a block that is not BUSY: a reset, a START, and a CTRL write with IE = 0
(60_exceptions.md R240). -/
def HostEvent.lowersIrq (e : HostEvent) : Prop :=
  e = .reset ∨ ∃ d, e = .access true 0 4 d ∧ (d.getLsbD 0 = true ∨ d.getLsbD 3 = false)

/-- Each of these events is answered with the interrupt low. -/
theorem serveHost_lowers {e : HostEvent} {s : State} (hb : s.busy = false) (he : e.lowersIrq) :
    ∃ t, serveHost e s = .next t ∧ t.irq = false := by
  rcases he with rfl | ⟨d, rfl, hd⟩
  · exact ⟨_, rfl, rfl⟩
  · refine ⟨s.writePort offCtrl d, hostAccess_aligned s (Nat.zero_mod 4), ?_⟩
    rw [writePort_ctrl_idle hb]
    split
    · simp [State.irq]
    · next hstart =>
      have hie : (s.configure d).ctrlIe = false := hd.resolve_left hstart
      rw [State.irq, hie, Bool.false_and]

/-- An event under which the interrupt falls is one of these: it ends the phase DONE or ERROR, or it clears IE. -/
theorem lowersIrq_of_falls {e : HostEvent} {s t : State} (h : serveHost e s = .next t) (hhigh : s.irq = true)
    (hlow : t.irq = false) : e.lowersIrq := by
  obtain ⟨hie, hstop⟩ := irq_iff.1 hhigh
  rcases serveHost_place h with ⟨hseq, -⟩ | ⟨-, hreset⟩ | ⟨-, -, d, hstart, hd⟩
  · rw [irq_of_stopped (hseq ▸ hstop)] at hlow
    rcases serveHost_ctrlIe (busy_eq_false_of_irq hhigh) h with hsame | hreset | ⟨d, hctrl, hd⟩
    · rw [hsame, hie] at hlow; cases hlow
    · exact .inl hreset
    · exact .inr ⟨d, hctrl, .inr (hd.symm.trans hlow)⟩
  · exact .inl hreset
  · exact .inr ⟨d, hstart, .inl hd⟩

/-- Only the decoder ends an operation. -/
theorem step_ends {s t : State} (hs : s.Inv) (h : step s = .next t) (hb : s.busy = true)
    (hstop : t.seq = .done ∨ t.seq = .error) :
    ∃ requests, decoderTurn { s with host := requests } = .next t := by
  have hkept : t.seq ≠ s.seq := fun hq => by
    rw [busy_iff, ← hq] at hb
    rcases hstop with hq | hq <;> simp [hq] at hb
  rcases step_next_cases hs.issueEmpty h with rfl | ⟨r, rest, -, hserve, -⟩ | ⟨requests, hturn, -⟩
  · exact absurd rfl hkept
  · rcases serveHost_place hserve with ⟨hq, -⟩ | ⟨hq, -⟩ | ⟨-, hq, -⟩
    · exact absurd hq hkept
    · rcases hstop with h' | h' <;> simp [hq] at h'
    · rcases hstop with h' | h' <;> simp [hq] at h'
  · exact ⟨requests, hturn⟩

/-! ## A block that is missing -/

namespace DecodedUpTo

variable {s u : State} {k : Nat} (h : DecodedUpTo s u k)
include h

/-- Where the host asks nothing, the step at a block that does not lie below L raises InvalidBlockSize (R158). -/
theorem step_short (hk : k < Spec.blocks s.inByte) (hlen : s.opLen.toNat < 128 + 8 * k + 8) (hu : u.Undisturbed 1) :
    ∃ v : State, step u = .next (v.raise .invalidBlockSize (v.blockIndex.extractLsb' 0 32)) ∧
      v.blockIndex = u.blockIndex ∧ v.inMem = s.inMem := by
  have hq : u.seq = .blocks := by
    rcases h.seq with ⟨hq, -⟩ | ⟨-, hdone⟩
    · exact hq
    · omega
  obtain ⟨l, ls, hstep⟩ := step_blocks h.inv h.clean hq hu
  have hshort : u.opLen.toNat < u.blockAddress + 8 := by rw [h.blockAddress, h.file.opLen]; exact hlen
  exact ⟨_, hstep.trans (runOps_blockOps_short (by exact hshort)), rfl, h.file.inMem⟩

end DecodedUpTo

/-- A file that passes the checks holds a whole header. -/
theorem header_of_checkError {buf : Nat → Byte} {len outCapacity : Nat} {strict : Bool}
    (h : Spec.checkError buf len strict outCapacity = none) : 128 ≤ len := by
  by_contra hlt
  simp [Spec.checkError, Nat.not_le.1 hlt] at h

end Sys2Proof.Machine

open Sys2Proof Sys2Proof.Machine

/-- Settles O16: the level follows IE in DONE and ERROR; only the decoder ends an operation, and keeps IE; only a served event
lowers the level, by ending the phase or by clearing IE. -/
theorem interruptRisesAndFalls : Obligations.InterruptRisesAndFalls := by
  unfold Obligations.InterruptRisesAndFalls
  refine ⟨fun s => ?level, fun s t hs h hb hstop => ?rises, fun s r rest hi hh hb he => ?lowered,
    fun s t hs h hhigh hlow => ?falls⟩
  case level => rw [statusOf_stopped_iff]; exact irq_iff
  case rises =>
    obtain ⟨requests, hturn⟩ := step_ends hs h hb hstop
    have hie := decoderTurn_ctrlIe (inv_host hs requests) (by exact hb) hturn
    exact (irq_of_stopped hstop).trans hie
  case lowered =>
    rw [step_host hi hh (.inl hb)]
    exact serveHost_lowers hb he
  case falls =>
    rcases step_next_cases hs.issueEmpty h with rfl | ⟨r, rest, hh, hserve, -⟩ | ⟨-, -, hb⟩
    · rw [hhigh] at hlow; cases hlow
    · exact ⟨r, by simp [hh], lowersIrq_of_falls hserve hhigh hlow⟩
    · rw [busy_eq_false_of_irq hhigh] at hb; cases hb

/-- Settles O60: the walk decodes the blocks that lie wholly below L, and the next block is the first that does not. -/
theorem shortDataNamesTheFirstMissingBlock : Obligations.ShortDataNamesTheFirstMissingBlock := by
  unfold Obligations.ShortDataNamesTheFirstMissingBlock
  intro s hs hu hpass hlen
  have hheader := header_of_checkError hpass
  obtain ⟨k, hwhole, hshort⟩ : ∃ k, 128 + 8 * k ≤ s.opLen.toNat ∧ s.opLen.toNat < 128 + 8 * k + 8 :=
    ⟨(s.opLen.toNat - 128) / 8, by omega, by omega⟩
  have hmissing : k < Spec.blocks s.inByte := by omega
  obtain ⟨u, hstart, hu0, hwait⟩ := runs_to_blocks hs hu hpass
  obtain ⟨v, hwalk, hv, hlast⟩ := hu0.runs k (j := Spec.blocks s.inByte - k) (by omega) (by omega) fun r hr =>
    Nat.le_trans (by omega) (hwait r hr)
  rw [Nat.zero_add] at hv
  obtain ⟨w, hstep, hindex, hin⟩ := hv.step_short hmissing hshort fun r hr => Nat.le_trans (by omega) (hlast r hr)
  have hruns := runs_add (runs_add hstart hwalk) (runs_one hstep)
  have htoNat : w.blockIndex.toNat = k := hindex ▸ hv.blockIndex
  refine ⟨w.raise .invalidBlockSize (w.blockIndex.extractLsb' 0 32), ?_, rfl, rfl, ?_⟩ <;> rw [raise_blockIndex, htoNat]
  · rw [Nat.add_comm 2 k] at hruns
    exact hruns
  · exact ⟨hmissing, hwhole, hshort, htoNat ▸ lowWord_toNat w.blockIndex, hin⟩

end

section
/-! PROOFS of the family 70_reset_and_hazards: the configuration of an operation that runs (O13), and what the reset input
leaves (O7). -/

namespace Sys2Proof.Machine

/-! ## The configuration of an operation -/

/-- What configures an operation: CTRL's stored bits and INPUT_LEN (10_state.md R33, R39), and the values START latched of them
(41_decode_dispatch.md R150). -/
def State.configuration (s : State) : Bool × TileOrder × Bool × Word × Bool × TileOrder × Word :=
  (s.ctrlStrict, s.ctrlTileOrder, s.ctrlIe, s.inputLen, s.opStrict, s.opOrder, s.opLen)

theorem configuration_eq_iff {s t : State} : t.configuration = s.configuration ↔
    t.ctrlStrict = s.ctrlStrict ∧ t.ctrlTileOrder = s.ctrlTileOrder ∧ t.ctrlIe = s.ctrlIe ∧ t.inputLen = s.inputLen ∧
    t.opStrict = s.opStrict ∧ t.opOrder = s.opOrder ∧ t.opLen = s.opLen := by
  simp only [State.configuration, Prod.mk.injEq]

@[simp] theorem setSeq_configuration (s : State) (p : Phase) : (s.setSeq p).configuration = s.configuration := rfl

@[simp] theorem finish_configuration (s : State) (p : Phase) : (s.finish p).configuration = s.configuration := by
  simp [State.configuration]

@[simp] theorem raise_configuration (s : State) (e : ErrorKind) (info : Word) :
    (s.raise e info).configuration = s.configuration := by
  simp [State.configuration]

@[simp] theorem spoilResults_configuration (s : State) : s.spoilResults.configuration = s.configuration := by
  simp [State.configuration]

/-- While BUSY every register write is ignored (10_state.md R29). -/
theorem writePort_busy {s : State} (off : Byte) (data : Word) (hb : s.busy = true) : s.writePort off data = s := by
  unfold State.writePort
  rw [writeStart_busy hb, writeConfig_busy hb, writeLen_busy hb]
  split_ifs <;> rfl

/-- While BUSY no operation changes the configuration: the register writes are ignored, the others do not write it. -/
theorem exec_configuration {i : Instr} {s t : State} (hb : s.busy = true) (h : exec i s = .next t) :
    t.configuration = s.configuration := by
  cases i
  case cmdStart wd => cases h; rw [writeStart_busy hb]
  case cmdConfig wd => cases h; rw [writeConfig_busy hb]
  case cmdSetlen len => cases h; rw [writeLen_busy hb]
  case regWrite off data =>
    simp only [exec, execRegWrite] at h
    split at h <;> cases h
    rw [writePort_busy off data hb]
  case regRead off =>
    simp only [exec, execRegRead] at h
    split at h <;> cases h
    obtain ⟨p, a, d, g, hread⟩ := readPort_cases s off
    rw [hread]; rfl
  case fmtDx10 | fmtOther => cases h; exact raise_configuration _ _ _
  case hpLengthCheck | hpStrictCheck | dsAlignCheck =>
    simp only [exec_hpLengthCheck, exec_hpStrictCheck, exec_dsAlignCheck] at h
    cases h
    split <;> simp
  case hpReadFields | hpDx10Detect =>
    simp only [exec, execHpReadFields, execHpDx10Detect, State.readingIn] at h
    split at h <;> cases h
    rfl
  case dsFormatCheck =>
    simp only [exec, execDsFormatCheck, State.readingIn] at h
    split_ifs at h <;> cases h <;> simp
  case dsCapacityCheck =>
    rw [exec_dsCapacityCheck] at h
    cases h
    split_ifs
    · simp
    · simp
    · rfl
  case sqBlockFetch =>
    rcases exec_sqBlockFetch_cases h with rfl | ht
    · simp
    · rw [ht]; rfl
  case bdPal6 | bdPal4 | bdPal4Const => rw [exec_decompress (by decide) h]; rfl
  case taTilePlace => rw [exec_taTilePlace_eq h]; rfl
  case taTileWrite => simp only [(exec_taTileWrite_eq h).2, State.configuration]
  case sqAdvance =>
    rw [exec_sqAdvance_eq] at h
    cases h
    split
    · exact finish_configuration _ _
    · rfl
  all_goals (cases h; rfl)

theorem runCode_configuration {c : Code} {s t : State} (hb : s.busy = true) (h : runCode c s = .next t) :
    t.configuration = s.configuration := by
  unfold runCode at h
  split at h
  · exact exec_configuration hb h
  · cases h

/-- An operation runs or not by the phase alone (10_state.md R36). -/
theorem busy_of_seq_eq {s t : State} (hq : t.seq = s.seq) (hb : s.busy = true) : t.busy = true := by
  rw [busy_iff, hq]; exact busy_iff.1 hb

/-- The operations of a visit run while the phase stays, so each of them begins while BUSY. -/
theorem runOps_configuration {is : List Instr} {s t : State} (hb : s.busy = true) (h : runOps s.seq is s = .next t) :
    t.configuration = s.configuration := by
  induction is generalizing s with
  | nil =>
    simp only [runOps] at h
    cases h
    split <;> rfl
  | cons i is ih =>
    simp only [runOps] at h
    split at h
    · next u hu =>
      have hop := exec_configuration hb hu
      split at h
      · next hq => exact (ih (busy_of_seq_eq hq hb) (hq.symm ▸ h)).trans hop
      · cases h; exact hop
    · cases h
    · cases h

theorem decoderVisit_configuration {s t : State} (hb : s.busy = true) (h : decoderVisit s = .next t) :
    t.configuration = s.configuration := by
  unfold decoderVisit at h
  have hq : s.enterVisit.seq = s.seq := by rw [enterVisit_eq]
  have hlane : s.enterVisit.configuration = s.configuration := by rw [enterVisit_eq]; rfl
  rw [← hq] at h
  exact (runOps_configuration (busy_of_seq_eq hq hb) h).trans hlane

theorem decoderTurn_configuration {s t : State} (hb : s.busy = true) (h : decoderTurn s = .next t) :
    t.configuration = s.configuration := by
  unfold decoderTurn at h
  split at h
  · cases h
    have hf := spoiledVisit_frame hb
    exact configuration_eq_iff.2
      ⟨hf.ctrlStrict, hf.ctrlTileOrder, hf.ctrlIe, hf.inputLen, hf.opStrict, hf.opOrder, hf.opLen⟩
  · exact decoderVisit_configuration hb h
  · exact decoderVisit_configuration hb h

theorem hostWriteIn_configuration {s t : State} {a : Nat} {bs : List Byte} (h : s.hostWriteIn a bs = .next t) :
    t.configuration = s.configuration := by
  unfold State.hostWriteIn State.spoilOperation at h
  split_ifs at h <;> cases h
  · rfl
  · rfl
  · exact spoilResults_configuration _

theorem hostReadOut_configuration {s t : State} {a : Nat} (h : s.hostReadOut a = .next t) :
    t.configuration = s.configuration := by
  unfold State.hostReadOut at h
  split_ifs at h <;> cases h <;> rfl

/-- While BUSY the host changes the configuration by a reset only (70_reset_and_hazards.md R271). -/
theorem serveHost_configuration {e : HostEvent} {s t : State} (hb : s.busy = true) (he : e ≠ .reset)
    (h : serveHost e s = .next t) : t.configuration = s.configuration := by
  cases e with
  | access write off bytes data =>
    simp only [serveHost, hostAccess] at h
    split_ifs at h
    · cases h; rfl
    · cases h; rfl
    · exact runCode_configuration hb h
    · exact runCode_configuration hb h
  | writeIn a bs => exact hostWriteIn_configuration h
  | readOut a => exact hostReadOut_configuration h
  | reset => exact absurd rfl he

/-! ## The reset input -/

/-- After the reset input every register reads 0 (70_reset_and_hazards.md R260, 10_state.md R54). -/
theorem portRead_afterReset (s : State) (off : Byte) : s.afterReset.portRead off = 0#32 :=
  portRead_reset off

/-- A run ends in one state. -/
theorem runs_unique {k : Nat} {s t u : State} (h : s.Runs k t) (h' : s.Runs k u) : u = t :=
  Host.Outcome.next.inj (h'.symm.trans h)

end Sys2Proof.Machine

open Sys2Proof Sys2Proof.Machine

/-- Settles O13: a step runs the operation handed in, waits, serves the host's first request or is the decoder's turn, and
while BUSY none of these but a reset writes the configuration. -/
theorem configurationIsFixedWhileBusy : Obligations.ConfigurationIsFixedWhileBusy := by
  unfold Obligations.ConfigurationIsFixedWhileBusy
  intro s t hb h hreset
  rw [← configuration_eq_iff]
  cases hi : s.issue with
  | some c =>
    rw [step_issue hi] at h
    exact runCode_configuration (s := { s with issue := none }) hb h
  | none =>
    rcases step_next_cases hi h with rfl | ⟨r, rest, hh, hserve, hr⟩ | ⟨requests, hturn, -⟩
    · rfl
    · have hwait : r.wait = 0 := hr.resolve_left (by simp [hb])
      have hne : r.event ≠ .reset := fun he => hreset ⟨hi, r, by simp [hh], he, hwait⟩
      exact serveHost_configuration (s := { s with host := rest }) hb hne hserve
    · exact decoderTurn_configuration (s := { s with host := requests }) hb hturn

/-- Settles O7: the reset is served at once; the state it leaves is idle with every register 0, and with nothing pending it is
the only state that any number of steps leads to. -/
theorem resetAbandonsTheOperation : Obligations.ResetAbandonsTheOperation := by
  unfold Obligations.ResetAbandonsTheOperation
  intro s r rest hi hh hr he
  have hstep : step s = .next (State.afterReset { s with host := rest }) := by rw [step_host hi hh hr, he]; rfl
  refine ⟨_, hstep, rfl, rfl, rfl, portRead_afterReset _, rfl, fun _ => rfl, fun _ => rfl, rfl, rfl,
    afterReset_lanes _, ?nothingResumes⟩
  rintro rfl k u hu
  rw [runs_unique (waitsWhenNoOperationRuns k _ rfl rfl (.inl rfl)) hu]
  rfl

end
